-- ==== Sys2Proof/Word.lean ====
section
/-! DEFINITION. The values the machine moves: words, console bytes, register indices (spec/00_scope.md R5). -/

namespace Sys2Proof

/-- A Word: 16 bits, bit 15 the most significant; arithmetic wraps modulo 65536 (R5). Addresses are Words too:
memory is addressed in whole words (spec/20_memory.md R30). -/
abbrev Word := BitVec 16

/-- A console byte, 0 to 255; no character set is attached to it (spec/44_trap_system.md, opening paragraph). -/
abbrev Byte := BitVec 8

/-- A 3-bit register index; all of 0 to 7 are legal in every register field (spec/10_state.md R11). -/
abbrev Reg := BitVec 3

end Sys2Proof
end

