-- ==== Sys2Proof/Config.lean ====
section
/-! DEFINITION. What one machine fixes: every parameter of spec/00_scope.md R4 that is taken from general knowledge (GK) or
left OPEN, as a field. R4's values for them are `Config.standard` (Machine/Parameters.lean). A `Config` is carried in State
and never written, so a claim about every state covers every value of it (log 3). -/

namespace Sys2Proof

/-- The numbers of the 16 operations, ir[15:12] (spec/30_encoding.md R52; 92 D1, log 9). -/
structure Opcodes where
  br : BitVec 4
  add : BitVec 4
  ld : BitVec 4
  st : BitVec 4
  jsr : BitVec 4
  and : BitVec 4
  ldr : BitVec 4
  str : BitVec 4
  rti : BitVec 4
  not : BitVec 4
  ldi : BitVec 4
  sti : BitVec 4
  jmp : BitVec 4
  res : BitVec 4
  lea : BitVec 4
  trap : BitVec 4
  deriving DecidableEq, Repr

/-- The numbers in the order of R52. -/
def Opcodes.all (o : Opcodes) : List (BitVec 4) :=
  [o.br, o.add, o.ld, o.st, o.jsr, o.and, o.ldr, o.str, o.rti, o.not, o.ldi, o.sti, o.jmp, o.res, o.lea, o.trap]

/-- No two operations have one number (R50: 16 values, every one of which selects an operation). -/
abbrev Opcodes.wf (o : Opcodes) : Prop := o.all.Nodup

/-- The position of each operand field: the number of its lowest bit in the instruction word (R51; 92 D2, log 9). The widths
are the source's own, as are the places of the opcode (top four bits) and of the trap vector (low eight). -/
structure Layout where
  /-- DR, SR and the mask nzp. -/
  dr : Nat
  /-- SR1 and BaseR. -/
  sr1 : Nat
  sr2 : Nat
  /-- The mode bit of ADD and AND. -/
  imode : Nat
  imm5 : Nat
  /-- The mode bit of JUMP-TO-SUBROUTINE. -/
  jmode : Nat
  off6 : Nat
  off9 : Nat
  off11 : Nat
  deriving DecidableEq, Repr

/-- Two fields, each a lowest bit and a width, share no bit. -/
abbrev Layout.apart (lo width lo' width' : Nat) : Prop := lo + width ≤ lo' ∨ lo' + width' ≤ lo

/-- Every field lies in the twelve operand bits, and no two fields of one form share a bit (R53 to R59). -/
abbrev Layout.wf (l : Layout) : Prop :=
  (l.dr + 3 ≤ 12 ∧ l.sr1 + 3 ≤ 12 ∧ l.sr2 + 3 ≤ 12 ∧ l.imode + 1 ≤ 12 ∧ l.imm5 + 5 ≤ 12 ∧ l.jmode + 1 ≤ 12 ∧
    l.off6 + 6 ≤ 12 ∧ l.off9 + 9 ≤ 12 ∧ l.off11 + 11 ≤ 12) ∧
  (apart l.dr 3 l.sr1 3 ∧ apart l.dr 3 l.sr2 3 ∧ apart l.dr 3 l.imode 1 ∧ apart l.dr 3 l.imm5 5 ∧ apart l.dr 3 l.off6 6 ∧
    apart l.dr 3 l.off9 9) ∧
  (apart l.sr1 3 l.sr2 3 ∧ apart l.sr1 3 l.imode 1 ∧ apart l.sr1 3 l.imm5 5 ∧ apart l.sr1 3 l.off6 6) ∧
  (apart l.imode 1 l.sr2 3 ∧ apart l.imode 1 l.imm5 5 ∧ apart l.jmode 1 l.off11 11 ∧ apart l.jmode 1 l.sr1 3)

/-- The vectors of the six trap routines, ir[7:0] of TRAP (spec/44_trap_system.md R130; 92 D5, log 9). -/
structure Vectors where
  getc : Byte
  out : Byte
  puts : Byte
  /-- The vector of IN. -/
  input : Byte
  putsp : Byte
  halt : Byte
  deriving DecidableEq, Repr

/-- The vectors that name a routine; every other one is undefined (R137). -/
def Vectors.all (v : Vectors) : List Byte := [v.getc, v.out, v.puts, v.input, v.putsp, v.halt]

/-- No two routines have one vector. -/
abbrev Vectors.wf (v : Vectors) : Prop := v.all.Nodup

/-- The parameters of a machine (R4). -/
structure Config where
  /-- GK: the opcode numbers (92 D1; log 9). -/
  opcodes : Opcodes
  /-- GK: the field positions (92 D2; log 9). -/
  layout : Layout
  /-- GK: the trap vectors (92 D5; log 9). -/
  vectors : Vectors
  /-- GK: NEGATIVE as a value of the condition register (spec/10_state.md R15; 92 D3, log 9). The bits of the mask of BR lie
  as the flags do, because BR ands the two. -/
  flagN : BitVec 3
  /-- GK: ZERO, likewise. -/
  flagZ : BitVec 3
  /-- GK: POSITIVE, likewise. -/
  flagP : BitVec 3
  /-- GK: LINK_REG, written by JSR and JSRR (92 D4; log 9). -/
  linkReg : Reg
  /-- GK: KBSR_ADDR, the keyboard status word (R20; 92 D6, log 9). -/
  kbsrAddr : Word
  /-- GK: KBDR_ADDR, the keyboard data word (R20; 92 D6, log 9). -/
  kbdrAddr : Word
  /-- OPEN: COND_RESET, the condition register before the first flag-setting instruction (92 D7; log 4). -/
  condReset : BitVec 3
  /-- OPEN: TRAP_SAVES_LINK: does TRAP write the link register with the return address? (92 D11; log 5). -/
  trapSavesLink : Bool
  /-- OPEN: KBSR_READY_ASSIGNS: does a ready poll assign 0x8000 to KBSR, or only set bit 15? (92 D12; log 6). -/
  kbsrReadyAssigns : Bool
  /-- GK and OPEN: IN_PROMPT, the bytes IN emits before it reads (92 D17; log 7). -/
  inPrompt : List Byte
  deriving DecidableEq, Repr

/-- The three flags are one bit each, all different (R15). -/
abbrev Config.flagsWf (c : Config) : Prop :=
  (c.flagN ≠ 0 ∧ c.flagZ ≠ 0 ∧ c.flagP ≠ 0) ∧ c.flagN &&& c.flagZ = 0 ∧ c.flagN &&& c.flagP = 0 ∧ c.flagZ &&& c.flagP = 0

/-- Exactly one flag holds (R15). -/
abbrev Config.oneFlag (c : Config) (cond : BitVec 3) : Prop := cond = c.flagN ∨ cond = c.flagZ ∨ cond = c.flagP

/-- What the condition register can hold: no flag, before the first flag-setting instruction, or exactly one (R15, R16). -/
abbrev Config.condLegal (c : Config) (cond : BitVec 3) : Prop := cond = 0 ∨ c.oneFlag cond

/-- The parameters make one machine: nothing that must be told apart coincides (the link register is not R0, which the trap
routines use: R12), and COND_RESET is one of the four values 92 D7 names (log 26). -/
abbrev Config.wf (c : Config) : Prop :=
  c.opcodes.wf ∧ c.layout.wf ∧ c.vectors.wf ∧ c.flagsWf ∧ c.linkReg ≠ 0 ∧ c.kbsrAddr ≠ c.kbdrAddr ∧ c.condLegal c.condReset

end Sys2Proof
end

