-- ==== Sys2Proof/Machine/Parameters.lean ====
section
/-! DEFINITION. The values spec/00_scope.md R4 gives the parameters: the defaults, and what this hardware takes. -/

namespace Sys2Proof

/-- R52: the row order of the source's table, counted from 0 (92 D1; log 9). PRESUMED. -/
def Opcodes.standard : Opcodes where
  br := 0b0000
  add := 0b0001
  ld := 0b0010
  st := 0b0011
  jsr := 0b0100
  and := 0b0101
  ldr := 0b0110
  str := 0b0111
  rti := 0b1000
  not := 0b1001
  ldi := 0b1010
  sti := 0b1011
  jmp := 0b1100
  res := 0b1101
  lea := 0b1110
  trap := 0b1111

/-- R51: DR 11:9, SR1 8:6, SR2 2:0, imode 5, imm5 4:0, jmode 11, off6 5:0, off9 8:0, off11 10:0 (92 D2; log 9). PRESUMED. -/
def Layout.standard : Layout where
  dr := 9
  sr1 := 6
  sr2 := 0
  imode := 5
  imm5 := 0
  jmode := 11
  off6 := 0
  off9 := 0
  off11 := 0

/-- R130 (92 D5; log 9). PRESUMED. -/
def Vectors.standard : Vectors where
  getc := 0x20
  out := 0x21
  puts := 0x22
  input := 0x23
  putsp := 0x24
  halt := 0x25

/-- The defaults of R4. The GK ones are PRESUMED (logs 7, 9); COND_RESET, TRAP_SAVES_LINK and KBSR_READY_ASSIGNS are DESIGN
CHOICES of the spec (logs 4 to 6). The prompt is "Enter a character: ", 19 bytes. -/
def Config.standard : Config where
  opcodes := Opcodes.standard
  layout := Layout.standard
  vectors := Vectors.standard
  flagN := 0b100
  flagZ := 0b010
  flagP := 0b001
  linkReg := 7
  kbsrAddr := 0xFE00
  kbdrAddr := 0xFE02
  condReset := 0b000
  trapSavesLink := false
  kbsrReadyAssigns := false
  inPrompt :=
    [0x45, 0x6E, 0x74, 0x65, 0x72, 0x20, 0x61, 0x20, 0x63, 0x68, 0x61, 0x72, 0x61, 0x63, 0x74, 0x65, 0x72, 0x3A, 0x20]

/-- PC_START, where execution begins whatever the images' origins: fixed, neither GK nor OPEN (70_reset_and_hazards.md R176;
92 D8, log 8). -/
def Config.pcStart : Word := 0x3000

end Sys2Proof
end

