-- ==== Sys2Proof/Syntax.lean ====
section
/-! DEFINITION. The instructions: one constructor per row of spec/opcode_table.json, in the table's order, with the raw
(not yet extended) fields of spec/30_encoding.md R51. Bits that belong to no field are not kept (R62). -/

namespace Sys2Proof

/-- One constructor per row of spec/opcode_table.json (30_encoding.md R64: the 19 forms, TRAP split by its vector). -/
inductive Instr where
  /-- BR: mask `nzp` (n = bit 2, z = bit 1, p = bit 0 of the field), PC offset. R53, R120. -/
  | br (nzp : BitVec 3) (off9 : BitVec 9)
  /-- ADD, register form. R54, R90. -/
  | add (dr sr1 sr2 : Reg)
  /-- ADD, immediate form. R55, R91. -/
  | addImm (dr sr1 : Reg) (imm5 : BitVec 5)
  /-- LD. R56, R100. -/
  | ld (dr : Reg) (off9 : BitVec 9)
  /-- ST. R56, R104. -/
  | st (sr : Reg) (off9 : BitVec 9)
  /-- JSR: mode bit 1. R59, R122. -/
  | jsr (off11 : BitVec 11)
  /-- JSRR: mode bit 0. R59, R123. -/
  | jsrr (baseR : Reg)
  /-- AND, register form. R54, R92. -/
  | and (dr sr1 sr2 : Reg)
  /-- AND, immediate form. R55, R93. -/
  | andImm (dr sr1 : Reg) (imm5 : BitVec 5)
  /-- LDR. R57, R102. -/
  | ldr (dr baseR : Reg) (off6 : BitVec 6)
  /-- STR. R57, R106. -/
  | str (sr baseR : Reg) (off6 : BitVec 6)
  /-- RTI, fatal in this machine. R60, R139. -/
  | rti
  /-- NOT. R58, R94. -/
  | not (dr sr1 : Reg)
  /-- LDI. R56, R101. -/
  | ldi (dr : Reg) (off9 : BitVec 9)
  /-- STI. R56, R105. -/
  | sti (sr : Reg) (off9 : BitVec 9)
  /-- JMP (RET is JMP R7). R58, R121. -/
  | jmp (baseR : Reg)
  /-- RESERVED, fatal. R60, R140. -/
  | res
  /-- LEA. R56, R103. -/
  | lea (dr : Reg) (off9 : BitVec 9)
  /-- TRAP with the GETC vector. R60, R131. -/
  | trapGetc
  /-- TRAP with the OUT vector. R60, R132. -/
  | trapOut
  /-- TRAP with the PUTS vector. R60, R133. -/
  | trapPuts
  /-- TRAP with the IN vector. R60, R134. -/
  | trapIn
  /-- TRAP with the PUTSP vector. R60, R135. -/
  | trapPutsp
  /-- TRAP with the HALT vector. R60, R136. -/
  | trapHalt
  /-- TRAP with any other vector. R60, R137. -/
  | trapInvalid (vect8 : Byte)
  deriving DecidableEq, Repr

end Sys2Proof
end

