-- ==== Sys2Proof/WellFormed.lean ====
section
/-! DEFINITION. Which instructions the table has a word for. -/

namespace Sys2Proof

/-- The row TRAP.invalid matches exactly the TRAP words whose vector names no routine (30_encoding.md R64), so
`trapInvalid` with one of the six defined vectors is no instruction. Every other field is legal at every value (10_state.md
R11, 30_encoding.md R61). -/
def Instr.wf (config : Config) : Instr → Bool
  | .br _ _ => true
  | .add _ _ _ => true
  | .addImm _ _ _ => true
  | .ld _ _ => true
  | .st _ _ => true
  | .jsr _ => true
  | .jsrr _ => true
  | .and _ _ _ => true
  | .andImm _ _ _ => true
  | .ldr _ _ _ => true
  | .str _ _ _ => true
  | .rti => true
  | .not _ _ => true
  | .ldi _ _ => true
  | .sti _ _ => true
  | .jmp _ => true
  | .res => true
  | .lea _ _ => true
  | .trapGetc => true
  | .trapOut => true
  | .trapPuts => true
  | .trapIn => true
  | .trapPutsp => true
  | .trapHalt => true
  | .trapInvalid vect8 => !config.vectors.all.contains vect8

end Sys2Proof
end

