-- ==== Sys2Proof/Decode.lean ====
section
/-! DEFINITION. The decoder, a pure and total function of the instruction word (40_step_and_decode.md R74), and the encoder
written from the same formats (30_encoding.md R53 to R60). Both take the opcode numbers, field positions and vectors from
the parameters of the machine (00_scope.md R4; log 9). -/

namespace Sys2Proof

/-- ir[off9] as a PC offset field (R51). -/
def offset9 (l : Layout) (ir : Word) : BitVec 9 := ir.extractLsb' l.off9 9

/-- DR, SR, and the mask nzp (R51). -/
def fieldDr (l : Layout) (ir : Word) : Reg := ir.extractLsb' l.dr 3

/-- SR1 and BaseR (R51). -/
def fieldSr1 (l : Layout) (ir : Word) : Reg := ir.extractLsb' l.sr1 3

/-- SR2 (R51). -/
def fieldSr2 (l : Layout) (ir : Word) : Reg := ir.extractLsb' l.sr2 3

/-- imm5 (R51). -/
def fieldImm5 (l : Layout) (ir : Word) : BitVec 5 := ir.extractLsb' l.imm5 5

/-- off6 (R51). -/
def offset6 (l : Layout) (ir : Word) : BitVec 6 := ir.extractLsb' l.off6 6

/-- off11 (R51). -/
def offset11 (l : Layout) (ir : Word) : BitVec 11 := ir.extractLsb' l.off11 11

/-- The mode bit of ADD and AND: 1 for the immediate form (R51). -/
def fieldImode (l : Layout) (ir : Word) : BitVec 1 := ir.extractLsb' l.imode 1

/-- The mode bit of JUMP-TO-SUBROUTINE: 1 for the offset form (R51, R59). -/
def fieldJmode (l : Layout) (ir : Word) : BitVec 1 := ir.extractLsb' l.jmode 1

/-- ir[7:0]: vect8 (R51). -/
def fieldVect8 (ir : Word) : Byte := ir.extractLsb' 0 8

/-- ir[15:12]: the opcode (R50). -/
def fieldOpcode (ir : Word) : BitVec 4 := ir.extractLsb' 12 4

/-- Inside TRAP the vector chooses the routine (R75, R130). -/
def decodeTrap (v : Vectors) (vect8 : Byte) : Instr :=
  if vect8 = v.getc then .trapGetc
  else if vect8 = v.out then .trapOut
  else if vect8 = v.puts then .trapPuts
  else if vect8 = v.input then .trapIn
  else if vect8 = v.putsp then .trapPutsp
  else if vect8 = v.halt then .trapHalt
  else .trapInvalid vect8

/-- What an operation number selects, given the word for its fields (R74, R75; opcode map R52): the mode bits choose between
the forms of ADD, AND and JUMP-TO-SUBROUTINE, the vector the routine of TRAP. RTI, RESERVED and the undefined vectors are
instructions, with a fatal effect. -/
def decodeOperation (c : Config) (op : BitVec 4) (ir : Word) : Instr :=
  if op = c.opcodes.br then .br (fieldDr c.layout ir) (offset9 c.layout ir)
  else if op = c.opcodes.add then
    if fieldImode c.layout ir = 1 then .addImm (fieldDr c.layout ir) (fieldSr1 c.layout ir) (fieldImm5 c.layout ir)
    else .add (fieldDr c.layout ir) (fieldSr1 c.layout ir) (fieldSr2 c.layout ir)
  else if op = c.opcodes.ld then .ld (fieldDr c.layout ir) (offset9 c.layout ir)
  else if op = c.opcodes.st then .st (fieldDr c.layout ir) (offset9 c.layout ir)
  else if op = c.opcodes.jsr then
    if fieldJmode c.layout ir = 1 then .jsr (offset11 c.layout ir) else .jsrr (fieldSr1 c.layout ir)
  else if op = c.opcodes.and then
    if fieldImode c.layout ir = 1 then .andImm (fieldDr c.layout ir) (fieldSr1 c.layout ir) (fieldImm5 c.layout ir)
    else .and (fieldDr c.layout ir) (fieldSr1 c.layout ir) (fieldSr2 c.layout ir)
  else if op = c.opcodes.ldr then .ldr (fieldDr c.layout ir) (fieldSr1 c.layout ir) (offset6 c.layout ir)
  else if op = c.opcodes.str then .str (fieldDr c.layout ir) (fieldSr1 c.layout ir) (offset6 c.layout ir)
  else if op = c.opcodes.rti then .rti
  else if op = c.opcodes.not then .not (fieldDr c.layout ir) (fieldSr1 c.layout ir)
  else if op = c.opcodes.ldi then .ldi (fieldDr c.layout ir) (offset9 c.layout ir)
  else if op = c.opcodes.sti then .sti (fieldDr c.layout ir) (offset9 c.layout ir)
  else if op = c.opcodes.jmp then .jmp (fieldSr1 c.layout ir)
  else if op = c.opcodes.res then .res
  else if op = c.opcodes.lea then .lea (fieldDr c.layout ir) (offset9 c.layout ir)
  else decodeTrap c.vectors (fieldVect8 ir)   -- the one value left is TRAP's, the 16 numbers being different

/-- The decoder: the top four bits choose the operation (R74). Every word decodes (R64). -/
def decode (c : Config) (ir : Word) : Instr := decodeOperation c (fieldOpcode ir) ir

/-- The number of the operation, ir[15:12] (R50, R52). -/
def Instr.opcode (o : Opcodes) : Instr → BitVec 4
  | .br _ _ => o.br
  | .add _ _ _ => o.add
  | .addImm _ _ _ => o.add
  | .ld _ _ => o.ld
  | .st _ _ => o.st
  | .jsr _ => o.jsr
  | .jsrr _ => o.jsr
  | .and _ _ _ => o.and
  | .andImm _ _ _ => o.and
  | .ldr _ _ _ => o.ldr
  | .str _ _ _ => o.str
  | .rti => o.rti
  | .not _ _ => o.not
  | .ldi _ _ => o.ldi
  | .sti _ _ => o.sti
  | .jmp _ => o.jmp
  | .res => o.res
  | .lea _ _ => o.lea
  | .trapGetc => o.trap
  | .trapOut => o.trap
  | .trapPuts => o.trap
  | .trapIn => o.trap
  | .trapPutsp => o.trap
  | .trapHalt => o.trap
  | .trapInvalid _ => o.trap

/-- A word with a field put at a position, its other bits as they were. -/
def putField {n : Nat} (lo : Nat) (f : BitVec n) (w : Word) : Word :=
  w &&& ~~~ ((BitVec.allOnes n).setWidth 16 <<< lo) ||| f.setWidth 16 <<< lo

/-- The operand fields of each form in their places. The bits that belong to no field are as assemblers write them: zeros, and
ones in NOT (R54, R58, R59, R60; 93 GK9). -/
def Instr.operandWord (c : Config) : Instr → Word
  | .br nzp off9 => putField c.layout.dr nzp (putField c.layout.off9 off9 0)
  | .add dr sr1 sr2 =>
    putField c.layout.dr dr (putField c.layout.sr1 sr1 (putField c.layout.imode 0#1 (putField c.layout.sr2 sr2 0)))
  | .addImm dr sr1 imm5 =>
    putField c.layout.dr dr (putField c.layout.sr1 sr1 (putField c.layout.imode 1#1 (putField c.layout.imm5 imm5 0)))
  | .ld dr off9 => putField c.layout.dr dr (putField c.layout.off9 off9 0)
  | .st sr off9 => putField c.layout.dr sr (putField c.layout.off9 off9 0)
  | .jsr off11 => putField c.layout.jmode 1#1 (putField c.layout.off11 off11 0)
  | .jsrr baseR => putField c.layout.jmode 0#1 (putField c.layout.sr1 baseR 0)
  | .and dr sr1 sr2 =>
    putField c.layout.dr dr (putField c.layout.sr1 sr1 (putField c.layout.imode 0#1 (putField c.layout.sr2 sr2 0)))
  | .andImm dr sr1 imm5 =>
    putField c.layout.dr dr (putField c.layout.sr1 sr1 (putField c.layout.imode 1#1 (putField c.layout.imm5 imm5 0)))
  | .ldr dr baseR off6 => putField c.layout.dr dr (putField c.layout.sr1 baseR (putField c.layout.off6 off6 0))
  | .str sr baseR off6 => putField c.layout.dr sr (putField c.layout.sr1 baseR (putField c.layout.off6 off6 0))
  | .rti => 0
  | .not dr sr1 => putField c.layout.dr dr (putField c.layout.sr1 sr1 0x0FFF)
  | .ldi dr off9 => putField c.layout.dr dr (putField c.layout.off9 off9 0)
  | .sti sr off9 => putField c.layout.dr sr (putField c.layout.off9 off9 0)
  | .jmp baseR => putField c.layout.sr1 baseR 0
  | .res => 0
  | .lea dr off9 => putField c.layout.dr dr (putField c.layout.off9 off9 0)
  | .trapGetc => putField 0 c.vectors.getc 0
  | .trapOut => putField 0 c.vectors.out 0
  | .trapPuts => putField 0 c.vectors.puts 0
  | .trapIn => putField 0 c.vectors.input 0
  | .trapPutsp => putField 0 c.vectors.putsp 0
  | .trapHalt => putField 0 c.vectors.halt 0
  | .trapInvalid vect8 => putField 0 vect8 0

/-- The encoder: the opcode above the operand fields, one word (R50). -/
def encode (c : Config) (i : Instr) : Word := putField 12 (i.opcode c.opcodes) (i.operandWord c)

/-- The instruction the decoder reads from a word given in the numbering of spec/opcode_table.json, which is that of the
standard parameters: bit 0 is the least significant bit of the one instruction word, and the word has no bytes with addresses
of their own (20_memory.md R36), so the number is the word. The table's rows have 16 bits (R50): a shorter number is padded
with zeros above, a longer one is no instruction of this machine. -/
def decodeTableWord (nbits w : Nat) : Option Instr :=
  if nbits = 0 ∨ 16 < nbits then none else some (decode Config.standard (BitVec.ofNat 16 (w % 2 ^ nbits)))

end Sys2Proof
end

