-- ==== Sys2Proof/Machine/Memory.lean ====
section
/-! DEFINITION. The stored memory (10_state.md R19): a canonical list of the words that are not zero. Every word is zero at
reset (70_reset_and_hazards.md R170), so zero is what an unlisted address holds (log 1). -/

namespace Sys2Proof.Machine

/-- One stored word at a word address. The machine has no smaller addressable unit (20_memory.md R31, R36; log 1). -/
abbrev Cell := Nat × Word

/-- The stored memory, `Mem` of the spec (R30). Canonical form: `Memory.wf`. -/
abbrev Memory := List Cell

/-- The canonical form: addresses strictly rising, all below 65536, no listed word zero. -/
abbrev Memory.wf (m : Memory) : Prop :=
  m.Pairwise (fun c d => c.1 < d.1) ∧ ∀ c ∈ m, c.1 < 65536 ∧ c.2 ≠ 0

/-- The word listed at an address, zero where none is. -/
def Memory.lookup : Memory → Nat → Word
  | [], _ => 0
  | c :: rest, a => if c.1 = a then c.2 else Memory.lookup rest a

/-- The list without an address. -/
def Memory.erase (m : Memory) (a : Nat) : Memory := m.filter (fun c => c.1 ≠ a)

/-- A cell put before the first one of a higher address. -/
def Memory.insert (a : Nat) (v : Word) : Memory → Memory
  | [] => [(a, v)]
  | c :: rest => if c.1 < a then c :: Memory.insert a v rest else (a, v) :: c :: rest

/-- `Mem[a]`: the stored word, read with no side effect (R30). Every 16-bit value is an address. -/
def Memory.read (m : Memory) (a : Word) : Word := m.lookup a.toNat

/-- `Mem[a] <- v` (R30). Writing zero removes the entry, so equal memories are equal lists. -/
def Memory.write (m : Memory) (a v : Word) : Memory :=
  if v = 0 then m.erase a.toNat else Memory.insert a.toNat v (m.erase a.toNat)

end Sys2Proof.Machine
end

