-- ==== Sys2Proof/Machine/State.lean ====
section
/-! DEFINITION. The state of the machine (10_state.md R10) as plain data, the reasons a step can stop, and reset. -/

namespace Sys2Proof.Machine

/-- The cause of a fatal condition (60_exceptions.md R152). -/
inductive Cause where
  /-- RTI or RESERVED was executed. -/
  | invalidOpcode
  /-- TRAP with a vector that names no routine. -/
  | invalidTrapVector
  /-- PUTS or PUTSP emitted a nonzero word at 0xFFFF (44_trap_system.md R141). -/
  | stringOverrun
  /-- The host could not obtain an image (70_reset_and_hazards.md R175). -/
  | loadFailure
  deriving DecidableEq, Repr

/-- The run status, which no instruction can read (10_state.md R18). -/
inductive Status where
  /-- Zero-initialised or loading; no instruction runs. -/
  | idle
  /-- Instructions run. -/
  | running
  /-- The termination flag is set: HALT was executed. Never left. -/
  | halted
  /-- A fatal condition ended the run. Never left. -/
  | fatal (cause : Cause)
  deriving DecidableEq, Repr

/-- A program image as the host finds it: its bytes in file order, or `none` where the host cannot obtain them
(70_reset_and_hazards.md R172, R175). -/
abbrev Image := Option (List Byte)

/-- Why a step or a meaning stops. None of these is an architectural exception: the spec's fatal conditions are NEXT
states whose status is `fatal` (R151). -/
inductive Fault where
  /-- Raised by GETC and IN when the input queue is empty: the blocking read is held (40_step_and_decode.md R77). `step`
  turns it into a next state equal to the state before the fetch, so it never stops a run (log 20). Safe. -/
  | inputHold
  /-- Raised by `step` when status is Halted: no step is enabled (R78; log 23). Safe: the spec goes no further either. -/
  | halted
  /-- Raised by `step` when status is Fatal: no step is enabled (R78; log 23). Safe, as `halted`. -/
  | fatal (cause : Cause)
  deriving DecidableEq, Repr

/-- Instructions without a meaning. None is left: no meaning answers with a refusal. -/
inductive Refusal where
  /-- Raised by an arm of `exec` whose instruction has no meaning yet (no arm at present). Safe: it stops. -/
  | notModelled (mnemonic : String)
  deriving DecidableEq, Repr

/-- The state: R10's list (`regs` to `output`), and three fields of the model's own (`config`, `images`, `arrivals`). -/
structure State where
  /-- R0 to R7 (R11). -/
  regs : Vector Word 8
  /-- The program counter, a word address (R13). -/
  pc : Word
  /-- The condition register, N Z P from bit 2 to bit 0 (R15). -/
  cond : BitVec 3
  /-- `Mem`, the two keyboard words included (R19, R20). -/
  mem : Memory
  /-- The run status (R18). -/
  status : Status
  /-- The console input queue, the next byte first (R21). -/
  input : List Byte
  /-- The console output log, the oldest byte first (R21). -/
  output : List Byte
  /-- The model's own: the parameters of this machine (R4); never written (log 3). -/
  config : Config
  /-- The model's own: the images the host has still to load, in order (R171; log 22). -/
  images : List Image
  /-- The model's own: the environment's script, the bytes that reach the input queue before each of the following steps
  (92 D25; log 21). -/
  arrivals : List (List Byte)
  deriving DecidableEq, Repr

/-- The machine right after reset, for given parameters (70_reset_and_hazards.md R170): all zero, status Idle. The
input queue is the environment's; it and the model's own lists are empty here (DESIGN CHOICE, logs 21 and 22). -/
def State.resetWith (config : Config) : State where
  regs := Vector.replicate 8 0
  pc := 0
  cond := config.condReset
  mem := []
  status := .idle
  input := []
  output := []
  config := config
  images := []
  arrivals := []

/-- The machine right after reset with the spec's default parameters (R4, R170). -/
def State.reset : State := State.resetWith Config.standard

end Sys2Proof.Machine
end

