-- ==== Sys2Proof/Machine/Flags.lean ====
section
/-! DEFINITION. The one flag computation (40_step_and_decode.md R73) and the one flag test (43_control.md R120). -/

namespace Sys2Proof.Machine

/-- The sign class of a value as the condition register holds it: zero, bit 15 set, or neither (R73). -/
def flagsOf (config : Config) (v : Word) : BitVec 3 :=
  if v = 0 then config.flagZ else if v.msb then config.flagN else config.flagP

/-- `setcc(v)`: the condition register takes the sign class of v (R73). -/
def setcc (v : Word) (s : State) : State := { s with cond := flagsOf s.config v }

/-- The test of BR: some flag of the mask is set (R120). -/
def flagsMeet (nzp : BitVec 3) (s : State) : Bool := nzp &&& s.cond != 0

end Sys2Proof.Machine
end

