-- ==== Sys2Proof/Machine/Ops.lean ====
section
/-! DEFINITION. The operations every meaning is built from: registers, console, the memory read and write paths, the write
of a destination register with its flags, the link of TRAP, and raising a fatal condition, which is all this machine has
in the place of taking an exception (60_exceptions.md R150, R151). There is no return from one (R155). -/

namespace Sys2Proof.Machine

/-- What a meaning or a step answers. -/
abbrev Result := Host.Outcome State Fault Refusal

/-- `x[r]` (00_scope.md R5). -/
def State.reg (s : State) (r : Reg) : Word := s.regs[r.toNat]

/-- `x[r] <- v`: plain storage, no register is hard-wired; the flags are not touched (R5, 10_state.md R11). -/
def State.setReg (s : State) (r : Reg) (v : Word) : State := { s with regs := s.regs.set r.toNat v }

/-- A byte as a Word, bits 15:8 zero (R5 zext_16). -/
def zext (b : Byte) : Word := b.setWidth 16

/-- The low byte of a word, w[7:0]. -/
def lowByte (w : Word) : Byte := w.extractLsb' 0 8

/-- The high byte of a word, w[15:8]. -/
def highByte (w : Word) : Byte := w.extractLsb' 8 8

/-- `ConsoleOut` of each byte in order: the log only grows (R5, R7). -/
def consoleOut (bs : List Byte) (s : State) : State := { s with output := s.output ++ bs }

/-- `Mem[a] <- v`, with no side effect (20_memory.md R30). -/
def storeWord (a v : Word) (s : State) : State := { s with mem := s.mem.write a v }

/-- The KBSR word after a ready poll: bit 15 set, bits 14:0 kept unless KBSR_READY_ASSIGNS (R32; log 6). -/
def readyStatus (s : State) : Word :=
  if s.config.kbsrReadyAssigns then 0x8000 else s.mem.read s.config.kbsrAddr ||| 0x8000

/-- The poll a read of KBSR makes (R32). Input pending: KBSR becomes ready and the next byte moves from the queue to KBDR.
None pending: KBSR is cleared. -/
def pollKeyboard (s : State) : State :=
  match s.input with
  | [] => storeWord s.config.kbsrAddr 0 s
  | c :: rest => { storeWord s.config.kbdrAddr (zext c) (storeWord s.config.kbsrAddr (readyStatus s) s) with input := rest }

/-- What a read of an address does before the word is returned: only KBSR has a side effect (R32, R35). -/
def readEffect (a : Word) (s : State) : State := if a = s.config.kbsrAddr then pollKeyboard s else s

/-- `MemRead(a, 1)`: the read path, the (possibly just updated) stored word and the state after (R32). -/
def memRead (a : Word) (s : State) : Word × State := ((readEffect a s).mem.read a, readEffect a s)

/-- `MemWrite(a, 1, v)`: an unconditional store, no interception for any address (R34). -/
def memWrite (a v : Word) (s : State) : State := storeWord a v s

/-- `x[DR] <- v; setcc(v)`: how the seven instructions with a destination register end (10_state.md R17). -/
def writeDest (dr : Reg) (v : Word) (s : State) : State := setcc v (s.setReg dr v)

/-- `x[LINK_REG] <- pc`, the link of JSR and JSRR (43_control.md R122, R123). -/
def writeLink (s : State) : State := s.setReg s.config.linkReg s.pc

/-- What every TRAP does first: the link only if TRAP_SAVES_LINK (44_trap_system.md R130, R138; log 5). -/
def trapEntry (s : State) : State := if s.config.trapSavesLink then writeLink s else s

/-- `raise Fatal(cause)`: the status, and nothing else; all the step did before stays done (60_exceptions.md R151).
Nothing is saved and control goes nowhere (R154). -/
def raiseFatal (cause : Cause) (s : State) : State := { s with status := .fatal cause }

end Sys2Proof.Machine
end

