-- ==== Sys2Proof/Machine/Boot.lean ====
section
/-! DEFINITION. What the host does before the first fetch: loading images and the start (70_reset_and_hazards.md R171 to
R176), and the environment's input between steps (92 D25). -/

namespace Sys2Proof.Machine

/-- The content words of an image, high byte first (R172), placed from an address on: words past 0xFFFF and a trailing odd
byte are dropped, and nothing wraps (R173; log 18). -/
def placeWords : List Byte → Nat → Memory → Memory
  | hi :: lo :: rest, a, m => if a < 65536 then placeWords rest (a + 1) (m.write (BitVec.ofNat 16 a) (hi ++ lo)) else m
  | _, _, m => m

/-- `Load(image)`: the first word is the origin; a stream without one writes nothing (R173; log 18). -/
def loadImage : List Byte → Memory → Memory
  | hi :: lo :: rest, m => placeWords rest (hi ++ lo : Word).toNat m
  | _, m => m

/-- The host's start: `pc <- PC_START; status <- Running`; registers and flags as they are (R176). -/
def hostStart (s : State) : State := { s with pc := Config.pcStart, status := .running }

/-- The host's next event while status is Idle, in the order of R171: load the next image (an unreadable one is fatal,
R175), or start when none is left. No instruction is fetched or executed (log 22). -/
def hostBoot (s : State) : State :=
  match s.images with
  | [] => hostStart s
  | none :: rest => raiseFatal .loadFailure { s with images := rest }
  | some bytes :: rest => { s with mem := loadImage bytes s.mem, images := rest }

/-- The bytes the environment appends to the input queue before this step (92 D25; log 21). -/
def deliver (s : State) : State :=
  match s.arrivals with
  | [] => s
  | bytes :: rest => { s with input := s.input ++ bytes, arrivals := rest }

/-- A word put where the next step fetches. A machine that is not Running, or whose pc is KBSR (a fetch there polls and
changes the word, 20_memory.md R33), is first started at PC_START (log 24). -/
def placeNext (word : Word) (s : State) : State :=
  let ready := if s.status = .running ∧ s.pc ≠ s.config.kbsrAddr then s else hostStart s
  storeWord ready.pc word ready

end Sys2Proof.Machine
end

