-- ==== Sys2Proof/Machine/Operands.lean ====
section
/-! DEFINITION. Every operand form: sign extension (40_step_and_decode.md R72) and the effective addresses
(42_data_movement.md R107). In a meaning the pc is already the address after the instruction (10_state.md R14). -/

namespace Sys2Proof.Machine

/-- `sext_n(f)`: the field widened to 16 bits by copying its top bit (R72). -/
def sext {n : Nat} (f : BitVec n) : Word := f.signExtend 16

/-- PC-relative address: `pc + sext_n(off)`, modulo 65536 (R107, R120, R122). -/
def pcRelative {n : Nat} (off : BitVec n) (s : State) : Word := s.pc + sext off

/-- Base and offset address: `x[BaseR] + sext_6(off6)`, modulo 65536 (R107). -/
def baseOffset (baseR : Reg) (off6 : BitVec 6) (s : State) : Word := s.reg baseR + sext off6

end Sys2Proof.Machine
end

