-- ==== Sys2Proof/Machine/Control.lean ====
section
/-! DEFINITION. BR, JMP, JSR and JSRR (43_control.md). None of them writes the flags. -/

namespace Sys2Proof.Machine

/-- `pc <- target`: any 16-bit value is a legal target (R121, R124). -/
def jumpTo (target : Word) (s : State) : State := { s with pc := target }

/-- BR: taken when the mask meets the flags; mask 000 never branches (R120). -/
def execBr (nzp : BitVec 3) (off9 : BitVec 9) (s : State) : Result :=
  .next (if flagsMeet nzp s then jumpTo (pcRelative off9 s) s else s)

/-- JMP (R121). -/
def execJmp (baseR : Reg) (s : State) : Result :=
  .next (jumpTo (s.reg baseR) s)

/-- JSR: link, then the target from the incremented pc (R122). -/
def execJsr (off11 : BitVec 11) (s : State) : Result :=
  .next (jumpTo (pcRelative off11 s) (writeLink s))

/-- JSRR: the link is written first and the base register read after it, so `JSRR R7` falls through (R123; log 10). -/
def execJsrr (baseR : Reg) (s : State) : Result :=
  .next (jumpTo ((writeLink s).reg baseR) (writeLink s))

end Sys2Proof.Machine
end

