-- ==== Sys2Proof/Machine/DataMovement.lean ====
section
/-! DEFINITION. LD, LDI, LDR, LEA, ST, STI and STR (42_data_movement.md); their accesses in the order of 20_memory.md R44. -/

namespace Sys2Proof.Machine

/-- A load: the word the read path gives at an address, into DR, with the flags. -/
def loadInto (dr : Reg) (ea : Word) (s : State) : State := writeDest dr (memRead ea s).1 (memRead ea s).2

/-- LD (R100). -/
def execLd (dr : Reg) (off9 : BitVec 9) (s : State) : Result :=
  .next (loadInto dr (pcRelative off9 s) s)

/-- LDI: two reads in this order, each through the read path (R101). -/
def execLdi (dr : Reg) (off9 : BitVec 9) (s : State) : Result :=
  let pointer := memRead (pcRelative off9 s) s
  .next (loadInto dr pointer.1 pointer.2)

/-- LDR: the address uses the base register's old value (R102). -/
def execLdr (dr baseR : Reg) (off6 : BitVec 6) (s : State) : Result :=
  .next (loadInto dr (baseOffset baseR off6 s) s)

/-- LEA: the address itself, no memory access; the flags are set (R103). -/
def execLea (dr : Reg) (off9 : BitVec 9) (s : State) : Result :=
  .next (writeDest dr (pcRelative off9 s) s)

/-- ST (R104). -/
def execSt (sr : Reg) (off9 : BitVec 9) (s : State) : Result :=
  .next (memWrite (pcRelative off9 s) (s.reg sr) s)

/-- STI: the pointer through the read path, then the store (R105). -/
def execSti (sr : Reg) (off9 : BitVec 9) (s : State) : Result :=
  let pointer := memRead (pcRelative off9 s) s
  .next (memWrite pointer.1 (pointer.2.reg sr) pointer.2)

/-- STR (R106). -/
def execStr (sr baseR : Reg) (off6 : BitVec 6) (s : State) : Result :=
  .next (memWrite (baseOffset baseR off6 s) (s.reg sr) s)

end Sys2Proof.Machine
end

