-- ==== Sys2Proof/Machine/Operate.lean ====
section
/-! DEFINITION. ADD, AND and NOT (41_operate.md). -/

namespace Sys2Proof.Machine

/-- ADD, register form (R90). -/
def execAdd (dr sr1 sr2 : Reg) (s : State) : Result :=
  .next (writeDest dr (s.reg sr1 + s.reg sr2) s)

/-- ADD, immediate form (R91). -/
def execAddImm (dr sr1 : Reg) (imm5 : BitVec 5) (s : State) : Result :=
  .next (writeDest dr (s.reg sr1 + sext imm5) s)

/-- AND, register form (R92). -/
def execAnd (dr sr1 sr2 : Reg) (s : State) : Result :=
  .next (writeDest dr (s.reg sr1 &&& s.reg sr2) s)

/-- AND, immediate form: the immediate is sign-extended before the AND (R93). -/
def execAndImm (dr sr1 : Reg) (imm5 : BitVec 5) (s : State) : Result :=
  .next (writeDest dr (s.reg sr1 &&& sext imm5) s)

/-- NOT (R94). -/
def execNot (dr sr1 : Reg) (s : State) : Result :=
  .next (writeDest dr (~~~ s.reg sr1) s)

end Sys2Proof.Machine
end

