-- ==== Sys2Proof/Machine/Trap.lean ====
section
/-! DEFINITION. TRAP and its six routines, the undefined vectors, RTI and RESERVED (44_trap_system.md). The core performs
each routine inside the TRAP step; pc and flags are left alone (R130). -/

namespace Sys2Proof.Machine

/-- GETC: a blocking read into R0, no echo; held while no byte is pending (R131, 40_step_and_decode.md R77). -/
def execTrapGetc (s : State) : Result :=
  match (trapEntry s).input with
  | [] => .fault .inputHold
  | c :: rest => .next ({ trapEntry s with input := rest }.setReg 0 (zext c))

/-- OUT: the low 8 bits of R0 (R132). -/
def execTrapOut (s : State) : Result :=
  .next (consoleOut [lowByte ((trapEntry s).reg 0)] (trapEntry s))

/-- What a walk over a string emits, and whether it met the zero word that ends it. -/
structure Walk where
  /-- The bytes emitted, in order. -/
  bytes : List Byte
  /-- True if a zero word ended the string, false if it ran past 0xFFFF. -/
  ended : Bool
  deriving DecidableEq, Repr

/-- The walk of PUTS and PUTSP (R133, R135): words from address 65536 - left on, read raw (20_memory.md R33), until the
first zero word; `left` counts the words up to 0xFFFF, and there is no wrap past it (R141). -/
def walkString (emit : Word → List Byte) (m : Memory) : (left : Nat) → Walk
  | 0 => ⟨[], false⟩
  | left + 1 =>
    let w := m.lookup (65536 - (left + 1))
    if w = 0 then ⟨[], true⟩
    else
      let tail := walkString emit m left
      ⟨emit w ++ tail.bytes, tail.ended⟩

/-- A string routine: emit the string at R0; past 0xFFFF the run ends after the bytes of that word (R141). -/
def emitString (emit : Word → List Byte) (s : State) : State :=
  let walk := walkString emit s.mem (65536 - (s.reg 0).toNat)
  if walk.ended then consoleOut walk.bytes s else raiseFatal .stringOverrun (consoleOut walk.bytes s)

/-- One character a word: its low 8 bits (R133; log 14). -/
def oneCharacter (w : Word) : List Byte := [lowByte w]

/-- Two characters a word: the low byte always, the high byte only if nonzero (R135). -/
def packedCharacters (w : Word) : List Byte := if highByte w = 0 then [lowByte w] else [lowByte w, highByte w]

/-- PUTS (R133). -/
def execTrapPuts (s : State) : Result :=
  .next (emitString oneCharacter (trapEntry s))

/-- IN: prompt, blocking read, echo, R0; held while no byte is pending (R134, R77). -/
def execTrapIn (s : State) : Result :=
  match (trapEntry s).input with
  | [] => .fault .inputHold
  | c :: rest => .next ((consoleOut (s.config.inPrompt ++ [c]) { trapEntry s with input := rest }).setReg 0 (zext c))

/-- PUTSP (R135). -/
def execTrapPutsp (s : State) : Result :=
  .next (emitString packedCharacters (trapEntry s))

/-- HALT: sets the termination flag and prints nothing (R136). -/
def execTrapHalt (s : State) : Result :=
  .next { trapEntry s with status := .halted }

/-- TRAP with any other vector: fatal, whichever it is (R137). -/
def execTrapInvalid (_vect8 : Byte) (s : State) : Result :=
  .next (raiseFatal .invalidTrapVector (trapEntry s))

/-- RTI: fatal; nothing is popped, no register changes (R139). -/
def execRti (s : State) : Result :=
  .next (raiseFatal .invalidOpcode s)

/-- RESERVED: fatal (R140). -/
def execRes (s : State) : Result :=
  .next (raiseFatal .invalidOpcode s)

end Sys2Proof.Machine
end

