-- ==== Sys2Proof/Machine/Cycle.lean ====
section
/-! DEFINITION. One instruction step: fetch, decode, execute, and the hold of a blocking read (40_step_and_decode.md R70,
R71, R77). -/

namespace Sys2Proof.Machine

/-- The fetch: a `MemRead` at pc, then the increment, modulo 65536 (R71). -/
def fetch (s : State) : Word × State :=
  let word := memRead s.pc s
  (word.1, { word.2 with pc := word.2.pc + 1 })

/-- A held blocking read undoes the whole step: no state changes, the fetch's own poll included (R77; log 20). -/
def orHold (before : State) : Result → Result
  | .fault .inputHold => .next before
  | result => result

/-- One instruction, atomic (R70). -/
def instructionStep (s : State) : Result :=
  orHold s (exec (decode s.config (fetch s).1) (fetch s).2)

/-- What the machine does next, by its run status (10_state.md R18, R78): an instruction while Running, a boot event of the
host while Idle, nothing once the run has ended. -/
def cycle (s : State) : Result :=
  match s.status with
  | .running => instructionStep s
  | .idle => .next (hostBoot s)
  | .halted => .fault .halted
  | .fatal cause => .fault (.fatal cause)

end Sys2Proof.Machine
end

