-- ==== Sys2Proof/Machine/Step.lean ====
section
/-! DEFINITION. The step of the whole machine, and the host's way to place an instruction. -/

namespace Sys2Proof.Machine

/-- One step of the machine: the environment's input arrives (92 D25, between steps), then the machine does what its run
status allows (40_step_and_decode.md R70, R78; 70_reset_and_hazards.md R171). -/
def step (s : State) : Host.Outcome State Fault Refusal := cycle (deliver s)

/-- The state with an instruction, numbered as spec/opcode_table.json numbers its bits, where `step` fetches next: the host's
load and start in one (70_reset_and_hazards.md R171; log 24). -/
def State.withFetchWord (s : State) (nbits w : Nat) : State := placeNext (BitVec.ofNat 16 (w % 2 ^ nbits)) s

end Sys2Proof.Machine
end

