-- ==== Sys2Proof/Safety.lean ====
section
/-! DEFINITION. The terms claims are stated in: how a run ends, the invariant, the sign class of a value, what an
instruction may write (40_step_and_decode.md R74, R76, 20_memory.md R44), and frames. -/

namespace Sys2Proof.Safety

open Sys2Proof.Machine

/-- A run has ended well exactly when status is Halted (70_reset_and_hazards.md R178; 92 D22). -/
abbrev endedWell (s : State) : Prop := s.status = .halted

/-- "Nothing went wrong": status is not Fatal (60_exceptions.md R151). -/
abbrev notFatal (s : State) : Prop := ∀ cause, s.status ≠ .fatal cause

/-- Exactly one flag of the machine holds (10_state.md R15). -/
abbrev oneFlag (s : State) : Prop := s.config.oneFlag s.cond

/-- The invariant of the machine: parameters of one machine, memory in canonical form, at most one flag. -/
abbrev StateInv (s : State) : Prop := s.config.wf ∧ s.mem.wf ∧ s.config.condLegal s.cond

/-- The sign class of a 16-bit value read as a number: 0, 32768 and above, or neither (40_step_and_decode.md R73). -/
def signClass (config : Config) (v : Word) : BitVec 3 :=
  if v.toNat = 0 then config.flagZ else if 32768 ≤ v.toNat then config.flagN else config.flagP

/-- The destination register of an instruction that "specifies" one: the column "writes DR" of R74, which is also its column
setcc (10_state.md R17). -/
def destReg : Instr → Option Reg
  | .br _ _ => none
  | .add dr _ _ => some dr
  | .addImm dr _ _ => some dr
  | .ld dr _ => some dr
  | .st _ _ => none
  | .jsr _ => none
  | .jsrr _ => none
  | .and dr _ _ => some dr
  | .andImm dr _ _ => some dr
  | .ldr dr _ _ => some dr
  | .str _ _ _ => none
  | .rti => none
  | .not dr _ => some dr
  | .ldi dr _ => some dr
  | .sti _ _ => none
  | .jmp _ => none
  | .res => none
  | .lea dr _ => some dr
  | .trapGetc => none
  | .trapOut => none
  | .trapPuts => none
  | .trapIn => none
  | .trapPutsp => none
  | .trapHalt => none
  | .trapInvalid _ => none

/-- The instructions that write pc after the fetch (10_state.md R14). -/
def writesPc : Instr → Bool
  | .br _ _ => true
  | .add _ _ _ => false
  | .addImm _ _ _ => false
  | .ld _ _ => false
  | .st _ _ => false
  | .jsr _ => true
  | .jsrr _ => true
  | .and _ _ _ => false
  | .andImm _ _ _ => false
  | .ldr _ _ _ => false
  | .str _ _ _ => false
  | .rti => false
  | .not _ _ => false
  | .ldi _ _ => false
  | .sti _ _ => false
  | .jmp _ => true
  | .res => false
  | .lea _ _ => false
  | .trapGetc => false
  | .trapOut => false
  | .trapPuts => false
  | .trapIn => false
  | .trapPutsp => false
  | .trapHalt => false
  | .trapInvalid _ => false

/-- The seven TRAP rows (44_trap_system.md R130). -/
def isTrap : Instr → Bool
  | .br _ _ => false
  | .add _ _ _ => false
  | .addImm _ _ _ => false
  | .ld _ _ => false
  | .st _ _ => false
  | .jsr _ => false
  | .jsrr _ => false
  | .and _ _ _ => false
  | .andImm _ _ _ => false
  | .ldr _ _ _ => false
  | .str _ _ _ => false
  | .rti => false
  | .not _ _ => false
  | .ldi _ _ => false
  | .sti _ _ => false
  | .jmp _ => false
  | .res => false
  | .lea _ _ => false
  | .trapGetc => true
  | .trapOut => true
  | .trapPuts => true
  | .trapIn => true
  | .trapPutsp => true
  | .trapHalt => true
  | .trapInvalid _ => true

/-- The registers an instruction writes without a field that names them: the link register of JSR and JSRR, R0 of GETC and
IN (R76). -/
def fixedRegs (i : Instr) (config : Config) : List Reg :=
  match i with
  | .jsr _ => [config.linkReg]
  | .jsrr _ => [config.linkReg]
  | .trapGetc => [0]
  | .trapIn => [0]
  | _ => []

/-- The general registers an instruction may write (R76): its DR, the link register for JSR and JSRR, R0 for GETC and
IN, and the link register for every TRAP if TRAP_SAVES_LINK. -/
def writtenRegs (i : Instr) (config : Config) : List Reg :=
  (destReg i).toList ++ fixedRegs i config ++ (if isTrap i && config.trapSavesLink then [config.linkReg] else [])

/-- The addresses an instruction reads through the read path after its fetch, in order (20_memory.md R44). -/
def readAddrs (i : Instr) (s : State) : List Word :=
  match i with
  | .ld _ off9 => [pcRelative off9 s]
  | .ldr _ baseR off6 => [baseOffset baseR off6 s]
  | .ldi _ off9 => [pcRelative off9 s, (memRead (pcRelative off9 s) s).1]
  | .sti _ off9 => [pcRelative off9 s]
  | _ => []

/-- The address an instruction stores to, if it is a store (20_memory.md R44). -/
def storeTarget (i : Instr) (s : State) : Option Word :=
  match i with
  | .st _ off9 => some (pcRelative off9 s)
  | .str _ baseR off6 => some (baseOffset baseR off6 s)
  | .sti _ off9 => some (memRead (pcRelative off9 s) s).1
  | _ => none

/-- Every general register but those listed holds what it held. -/
def RegsKeptBut (written : List Reg) (s t : State) : Prop := ∀ r, r ∉ written → t.reg r = s.reg r

/-- Every word of memory but those listed holds what it held. -/
def WordsKeptBut (stored : List Word) (s t : State) : Prop := ∀ a, a ∉ stored → t.mem.read a = s.mem.read a

/-- The console is untouched: no byte taken, none emitted. -/
def ConsoleKept (s t : State) : Prop := t.input = s.input ∧ t.output = s.output

/-- The model's own fields are untouched. -/
def OwnKept (s t : State) : Prop := t.config = s.config ∧ t.images = s.images ∧ t.arrivals = s.arrivals

/-- `t` is `s` with a value in a destination register and the flags set from it, and nothing else changed. -/
structure DestWritten (dr : Reg) (v : Word) (s t : State) : Prop where
  value : t.reg dr = v
  flags : t.cond = signClass s.config v
  regs : RegsKeptBut [dr] s t
  words : WordsKeptBut [] s t
  pc : t.pc = s.pc
  status : t.status = s.status
  console : ConsoleKept s t
  own : OwnKept s t

/-- `t` is `s` with a word stored, and nothing else changed. -/
structure WordStored (a v : Word) (s t : State) : Prop where
  value : t.mem.read a = v
  words : WordsKeptBut [a] s t
  regs : RegsKeptBut [] s t
  flags : t.cond = s.cond
  pc : t.pc = s.pc
  status : t.status = s.status
  console : ConsoleKept s t
  own : OwnKept s t

/-- `t` is `s` with the pc at a target and only the listed registers written; the flags are untouched. -/
structure Jumped (target : Word) (written : List Reg) (s t : State) : Prop where
  pc : t.pc = target
  regs : RegsKeptBut written s t
  words : WordsKeptBut [] s t
  flags : t.cond = s.cond
  status : t.status = s.status
  console : ConsoleKept s t
  own : OwnKept s t

/-- What every TRAP leaves: pc, flags, memory, and every register but those listed, except that the link register holds
the pc if TRAP_SAVES_LINK (44_trap_system.md R130, R138). -/
structure TrapKept (written : List Reg) (s t : State) : Prop where
  regs : ∀ r, r ∉ written → t.reg r = if r = s.config.linkReg ∧ s.config.trapSavesLink = true then s.pc else s.reg r
  words : WordsKeptBut [] s t
  flags : t.cond = s.cond
  pc : t.pc = s.pc
  own : OwnKept s t

/-- A result with bytes put before its output log, to compare two runs that differ in what was printed before. -/
def prependOutput (before : List Byte) : Result → Result
  | .next t => .next { t with output := before ++ t.output }
  | .fault reason => .fault reason
  | .refused reason => .refused reason

/-- A result with another input queue, to compare two runs that differ in what is typed. -/
def withInput (pending : List Byte) : Result → Result
  | .next t => .next { t with input := pending }
  | .fault reason => .fault reason
  | .refused reason => .refused reason

end Sys2Proof.Safety
end

