-- ==== Sys2Proof/Certificates/Slice0/Obligations.lean ====
section
/-! DEFINITION. The statements for the provers. Each docstring names the rule of spec/ it formalises; "log n" is
notes/assumptions/n.md. `exec` runs on the state after the fetch and the pc increment (40_step_and_decode.md R70). A statement
about every state holds for every value of the parameters of 00_scope.md R4, which State carries (log 3); where it could fail
for parameters that make no machine it has the premise `Config.wf` (log 26), which reset meets and every step keeps. -/

open Sys2Proof Sys2Proof.Machine Sys2Proof.Safety

/-! ### Encoding (30_encoding.md) -/

/-- Decoding an encoded well-formed instruction gives it back, every field at every value, for all opcode numbers, field
positions and vectors that make one machine (R50 to R60, 00_scope.md R4; logs 9 and 26). -/
def Obligations.DecodeUndoesEncode : Prop :=
  ∀ (config : Config) (i : Instr), config.wf → i.wf config = true → decode config (encode config i) = i

/-- Every word decodes, and to an instruction the table has a word for (R64), whatever the parameters. -/
def Obligations.EveryWordDecodesWellFormed : Prop :=
  ∀ (config : Config) (w : Word), (decode config w).wf config = true

/-- Every word of an operate or memory row of R52, whatever its undecoded bits, decodes to that row with its fields (R53 to
R58, R62; log 9, log 11). -/
def Obligations.OperateAndMemoryRowsDecode : Prop :=
  ∀ (r1 r2 r3 : Reg) (imm5 : BitVec 5) (off6 : BitVec 6) (off9 : BitVec 9) (x2 : BitVec 2) (x6 : BitVec 6),
    decode Config.standard (0b0001#4 ++ r1 ++ r2 ++ 0#1 ++ x2 ++ r3) = .add r1 r2 r3 ∧
    decode Config.standard (0b0001#4 ++ r1 ++ r2 ++ 1#1 ++ imm5) = .addImm r1 r2 imm5 ∧
    decode Config.standard (0b0101#4 ++ r1 ++ r2 ++ 0#1 ++ x2 ++ r3) = .and r1 r2 r3 ∧
    decode Config.standard (0b0101#4 ++ r1 ++ r2 ++ 1#1 ++ imm5) = .andImm r1 r2 imm5 ∧
    decode Config.standard (0b1001#4 ++ r1 ++ r2 ++ x6) = .not r1 r2 ∧
    decode Config.standard (0b0010#4 ++ r1 ++ off9) = .ld r1 off9 ∧
    decode Config.standard (0b1010#4 ++ r1 ++ off9) = .ldi r1 off9 ∧
    decode Config.standard (0b0110#4 ++ r1 ++ r2 ++ off6) = .ldr r1 r2 off6 ∧
    decode Config.standard (0b1110#4 ++ r1 ++ off9) = .lea r1 off9 ∧
    decode Config.standard (0b0011#4 ++ r1 ++ off9) = .st r1 off9 ∧
    decode Config.standard (0b1011#4 ++ r1 ++ off9) = .sti r1 off9 ∧
    decode Config.standard (0b0111#4 ++ r1 ++ r2 ++ off6) = .str r1 r2 off6

/-- Every word of a control or trap row of R52, whatever its undecoded bits, decodes to that row (R53, R58 to R60, R62, R63;
the vector numbers are log 9). -/
def Obligations.ControlAndTrapRowsDecode : Prop :=
  ∀ (n z p : BitVec 1) (r : Reg) (off9 : BitVec 9) (off11 : BitVec 11) (x2 : BitVec 2) (x3 : BitVec 3) (x4 : BitVec 4)
    (x6 : BitVec 6) (x12 : BitVec 12) (v : Byte),
    decode Config.standard (0b0000#4 ++ n ++ z ++ p ++ off9) = .br (n ++ z ++ p) off9 ∧
    decode Config.standard (0b1100#4 ++ x3 ++ r ++ x6) = .jmp r ∧
    decode Config.standard (0b0100#4 ++ 1#1 ++ off11) = .jsr off11 ∧
    decode Config.standard (0b0100#4 ++ 0#1 ++ x2 ++ r ++ x6) = .jsrr r ∧
    decode Config.standard (0b1000#4 ++ x12) = .rti ∧
    decode Config.standard (0b1101#4 ++ x12) = .res ∧
    decode Config.standard (0b1111#4 ++ x4 ++ 0x20#8) = .trapGetc ∧
    decode Config.standard (0b1111#4 ++ x4 ++ 0x21#8) = .trapOut ∧
    decode Config.standard (0b1111#4 ++ x4 ++ 0x22#8) = .trapPuts ∧
    decode Config.standard (0b1111#4 ++ x4 ++ 0x23#8) = .trapIn ∧
    decode Config.standard (0b1111#4 ++ x4 ++ 0x24#8) = .trapPutsp ∧
    decode Config.standard (0b1111#4 ++ x4 ++ 0x25#8) = .trapHalt ∧
    ((v.toNat < 0x20 ∨ 0x25 < v.toNat) → decode Config.standard (0b1111#4 ++ x4 ++ v) = .trapInvalid v)

/-- A few words of the decoding table of 95_test_vectors.md decode to the rows it gives (all rest on the numbers of log 9;
0x14DC, 0x46FF and 0xFF20 have undecoded bits set, which are ignored: log 11). -/
def Obligations.TestVectorWordsDecode : Prop :=
  decode Config.standard 0x03FD = .br 0b001 509 ∧
  decode Config.standard 0x14DC = .add 2 3 4 ∧
  decode Config.standard 0x107F = .addImm 0 1 31 ∧
  decode Config.standard 0x4FFF = .jsr 2047 ∧
  decode Config.standard 0x46FF = .jsrr 3 ∧
  decode Config.standard 0x697F = .ldr 4 5 63 ∧
  decode Config.standard 0x92BF = .not 1 2 ∧
  decode Config.standard 0xB204 = .sti 1 4 ∧
  decode Config.standard 0xFF20 = .trapGetc ∧
  decode Config.standard 0xF026 = .trapInvalid 38

/-! ### Operands, flags, memory -/

/-- Sign extension (40_step_and_decode.md R72): for all n in [1,16) the field is unchanged where its top bit is 0, and or-ed
with all higher bits set where it is 1. -/
def Obligations.SignExtensionCopiesTopBit : Prop :=
  ∀ (n : Nat) (f : BitVec n), 1 ≤ n → n ≤ 15 →
    (f.getLsbD (n - 1) = false → (sext f).toNat = f.toNat) ∧
    (f.getLsbD (n - 1) = true → sext f = f.setWidth 16 ||| ((0xFFFF : Word) <<< n))

/-- `setcc` sets exactly one flag, matching zero, bit 15, or neither, and writes nothing but the condition register
(40_step_and_decode.md R73; which bit each flag is, is a parameter). -/
def Obligations.SetccSetsExactlyTheSignClass : Prop :=
  ∀ (v : Word) (s : State),
    (v = 0 → (setcc v s).cond = s.config.flagZ) ∧
    (v ≠ 0 → v.getLsbD 15 = true → (setcc v s).cond = s.config.flagN) ∧
    (v ≠ 0 → v.getLsbD 15 = false → (setcc v s).cond = s.config.flagP) ∧
    s.config.oneFlag (setcc v s).cond ∧
    setcc v s = { s with cond := (setcc v s).cond }

/-- Canonical memory is a faithful picture of the 65536 words: two canonical memories that read alike at every address are
the same list (10_state.md R19; log 1). -/
def Obligations.CanonicalMemoriesThatReadAlikeAreEqual : Prop :=
  ∀ m n : Memory, m.wf → n.wf → (∀ a : Word, m.read a = n.read a) → m = n

/-- The read path (20_memory.md R32; keeping bits 14:0, consuming the byte and extending it with zeros are the spec's own choices,
logs 6, 12 and 15). A read of KBSR with a byte pending returns the word with bit 15 set, stores it, moves the byte to KBDR
zero-extended and takes it off the queue; with none pending it returns and stores 0; it changes nothing else either way. A read
of any other address, KBDR included, returns the stored word and has no side effect. -/
def Obligations.ReadPathPollsAtKeyboardStatusOnly : Prop :=
  ∀ s : State,
    let kbsr := s.config.kbsrAddr
    let kbdr := s.config.kbdrAddr
    (∀ c rest, s.config.wf → s.input = c :: rest →
      (memRead kbsr s).1 = (if s.config.kbsrReadyAssigns then 0x8000 else s.mem.read kbsr ||| 0x8000) ∧
      (memRead kbsr s).2.mem.read kbsr = (memRead kbsr s).1 ∧
      ((memRead kbsr s).2.mem.read kbdr).toNat = c.toNat ∧
      WordsKeptBut [kbsr, kbdr] s (memRead kbsr s).2 ∧
      (memRead kbsr s).2.input = rest) ∧
    (s.input = [] →
      (memRead kbsr s).1 = 0 ∧
      (memRead kbsr s).2.mem.read kbsr = 0 ∧
      WordsKeptBut [kbsr] s (memRead kbsr s).2 ∧
      (memRead kbsr s).2.input = []) ∧
    { (memRead kbsr s).2 with mem := s.mem, input := s.input } = s ∧
    (∀ a, a ≠ kbsr → memRead a s = (s.mem.read a, s))

/-! ### Operate instructions (41_operate.md) -/

/-- ADD, register form (R90): the sum modulo 65536 into DR, the flags from it, nothing else; DR may be a source. -/
def Obligations.AddWritesWrappedSum : Prop :=
  ∀ (dr sr1 sr2 : Reg) (s : State), ∃ (r : Word) (t : State),
    exec (.add dr sr1 sr2) s = .next t ∧
    r.toNat = ((s.reg sr1).toNat + (s.reg sr2).toNat) % 65536 ∧ DestWritten dr r s t

/-- ADD, immediate form (R91): the immediate is read as -16 to 15. -/
def Obligations.AddImmediateWritesWrappedSum : Prop :=
  ∀ (dr sr1 : Reg) (imm5 : BitVec 5) (s : State), ∃ (r : Word) (t : State),
    exec (.addImm dr sr1 imm5) s = .next t ∧
    (r.toNat : Int) = ((s.reg sr1).toNat + imm5.toInt) % 65536 ∧ DestWritten dr r s t

/-- AND, register form (R92): bit by bit. -/
def Obligations.AndWritesBitwiseAnd : Prop :=
  ∀ (dr sr1 sr2 : Reg) (s : State), ∃ (r : Word) (t : State),
    exec (.and dr sr1 sr2) s = .next t ∧
    (∀ k, r.getLsbD k = ((s.reg sr1).getLsbD k && (s.reg sr2).getLsbD k)) ∧ DestWritten dr r s t

/-- AND, immediate form (R93): a negative immediate keeps the high bits of the source, another clears them. -/
def Obligations.AndImmediateWritesBitwiseAnd : Prop :=
  ∀ (dr sr1 : Reg) (imm5 : BitVec 5) (s : State), ∃ (r : Word) (t : State),
    exec (.andImm dr sr1 imm5) s = .next t ∧
    (∀ k, r.getLsbD k = ((s.reg sr1).getLsbD k && (if k < 5 then imm5.getLsbD k else imm5.getLsbD 4))) ∧
    DestWritten dr r s t

/-- NOT (R94): all 16 bits inverted, r = 0xFFFF - x[SR]. -/
def Obligations.NotWritesComplement : Prop :=
  ∀ (dr sr1 : Reg) (s : State), ∃ (r : Word) (t : State),
    exec (.not dr sr1) s = .next t ∧ r.toNat = 0xFFFF - (s.reg sr1).toNat ∧ DestWritten dr r s t

/-- NOT followed by ADD #1 is two's-complement negation, with the flags of the negated value (R96, derived by the spec). -/
def Obligations.NotThenAddOneNegates : Prop :=
  ∀ (dr sr : Reg) (s : State), ∃ t u : State,
    exec (.not dr sr) s = .next t ∧ exec (.addImm dr dr 1) t = .next u ∧
    (u.reg dr).toNat = (65536 - (s.reg sr).toNat) % 65536 ∧ u.cond = signClass s.config (u.reg dr) ∧ RegsKeptBut [dr] s u

/-! ### Data movement (42_data_movement.md) -/

/-- LD (R100): the word the read path gives at `pc + sext_9(off9)`, with the flags; away from KBSR that is the stored word and
the read changes nothing. -/
def Obligations.LdLoadsPcRelativeWord : Prop :=
  ∀ (dr : Reg) (off9 : BitVec 9) (s : State), ∃ t : State,
    exec (.ld dr off9) s = .next t ∧
    DestWritten dr (memRead (s.pc + sext off9) s).1 (memRead (s.pc + sext off9) s).2 t ∧
    (s.pc + sext off9 ≠ s.config.kbsrAddr → DestWritten dr (s.mem.read (s.pc + sext off9)) s t)

/-- LDI (R101): two reads in order, the pointer and then the data, each through the read path; where neither address is KBSR
they are plain. -/
def Obligations.LdiLoadsThroughPointer : Prop :=
  ∀ (dr : Reg) (off9 : BitVec 9) (s : State), ∃ t : State,
    exec (.ldi dr off9) s = .next t ∧
    (let p := memRead (s.pc + sext off9) s
     DestWritten dr (memRead p.1 p.2).1 (memRead p.1 p.2).2 t) ∧
    (s.pc + sext off9 ≠ s.config.kbsrAddr → s.mem.read (s.pc + sext off9) ≠ s.config.kbsrAddr →
      DestWritten dr (s.mem.read (s.mem.read (s.pc + sext off9))) s t)

/-- LDR (R102): the word at base plus offset, the base's old value even where DR is the base. -/
def Obligations.LdrLoadsBaseOffsetWord : Prop :=
  ∀ (dr baseR : Reg) (off6 : BitVec 6) (s : State), ∃ t : State,
    exec (.ldr dr baseR off6) s = .next t ∧
    DestWritten dr (memRead (s.reg baseR + sext off6) s).1 (memRead (s.reg baseR + sext off6) s).2 t ∧
    (s.reg baseR + sext off6 ≠ s.config.kbsrAddr → DestWritten dr (s.mem.read (s.reg baseR + sext off6)) s t)

/-- LEA (R103): the address itself, with the flags; memory is not accessed and the keyboard not polled. -/
def Obligations.LeaWritesAddress : Prop :=
  ∀ (dr : Reg) (off9 : BitVec 9) (s : State), ∃ (r : Word) (t : State),
    exec (.lea dr off9) s = .next t ∧ (r.toNat : Int) = (s.pc.toNat + off9.toInt) % 65536 ∧ DestWritten dr r s t

/-- ST (R104): the register at `pc + sext_9(off9)`, at any address, the keyboard words included; nothing else. -/
def Obligations.StStoresPcRelative : Prop :=
  ∀ (sr : Reg) (off9 : BitVec 9) (s : State), ∃ t : State,
    exec (.st sr off9) s = .next t ∧ WordStored (s.pc + sext off9) (s.reg sr) s t

/-- STI (R105): the pointer through the read path, then the store at it; where the pointer's address is not KBSR the read is
plain and nothing but that word changes. -/
def Obligations.StiStoresThroughPointer : Prop :=
  ∀ (sr : Reg) (off9 : BitVec 9) (s : State), ∃ t : State,
    exec (.sti sr off9) s = .next t ∧
    WordStored (memRead (s.pc + sext off9) s).1 (s.reg sr) (memRead (s.pc + sext off9) s).2 t ∧
    (s.pc + sext off9 ≠ s.config.kbsrAddr → WordStored (s.mem.read (s.pc + sext off9)) (s.reg sr) s t)

/-- STR (R106): the register at base plus offset; SR may be the base. -/
def Obligations.StrStoresBaseOffset : Prop :=
  ∀ (sr baseR : Reg) (off6 : BitVec 6) (s : State), ∃ t : State,
    exec (.str sr baseR off6) s = .next t ∧ WordStored (s.reg baseR + sext off6) (s.reg sr) s t

/-! ### Control transfer (43_control.md) -/

/-- BR (R120): taken exactly when one of the three flags is in the mask and holds (a mask bit lines up with its flag: log 9); the
target is `pc + sext_9(off9)`, and with no flag set or mask 000 it is never taken. -/
def Obligations.BrTakenIffMaskMeetsFlags : Prop :=
  ∀ (nzp : BitVec 3) (off9 : BitVec 9) (s : State), s.config.wf →
    ∃ t : State, exec (.br nzp off9) s = .next t ∧
      Jumped
        (if (nzp &&& s.config.flagN ≠ 0 ∧ s.cond &&& s.config.flagN ≠ 0) ∨
            (nzp &&& s.config.flagZ ≠ 0 ∧ s.cond &&& s.config.flagZ ≠ 0) ∨
            (nzp &&& s.config.flagP ≠ 0 ∧ s.cond &&& s.config.flagP ≠ 0)
          then s.pc + sext off9 else s.pc)
        [] s t

/-- JMP (R121): pc takes the base register, any value; nothing else changes. -/
def Obligations.JmpGoesToBase : Prop :=
  ∀ (baseR : Reg) (s : State), ∃ t : State, exec (.jmp baseR) s = .next t ∧ Jumped (s.reg baseR) [] s t

/-- JSR (R122): the link register takes the incremented pc (that it is R7 is log 9), pc the PC-relative target; the flags stay. -/
def Obligations.JsrLinksAndJumps : Prop :=
  ∀ (off11 : BitVec 11) (s : State), ∃ t : State,
    exec (.jsr off11) s = .next t ∧ t.reg s.config.linkReg = s.pc ∧ Jumped (s.pc + sext off11) [s.config.linkReg] s t

/-- JSRR (R123): the link first, then the target; so JSRR of the link register, R7 (log 9), falls through to the next instruction
(the order is log 10). -/
def Obligations.JsrrLinksBeforeReadingBase : Prop :=
  ∀ (baseR : Reg) (s : State), ∃ t : State,
    exec (.jsrr baseR) s = .next t ∧ t.reg s.config.linkReg = s.pc ∧
      Jumped (if baseR = s.config.linkReg then s.pc else s.reg baseR) [s.config.linkReg] s t

/-! ### TRAP, RTI, RESERVED (44_trap_system.md) -/

/-- GETC (R131): with a byte pending it goes into R0 zero-extended, no echo, flags untouched (zero
extension is log 15, the link log 5). -/
def Obligations.GetcReadsOneByte : Prop :=
  ∀ (s : State) (c : Byte) (rest : List Byte), s.input = c :: rest →
    ∃ t : State, exec .trapGetc s = .next t ∧ (t.reg 0).toNat = c.toNat ∧ t.input = rest ∧ t.output = s.output ∧
      t.status = s.status ∧ TrapKept [0] s t

/-- OUT (R132): the low 8 bits of R0 are appended to the output; nothing else but what every TRAP does (the link
is log 5). The link register is not R0: log 26. -/
def Obligations.OutEmitsLowByte : Prop :=
  ∀ s : State, s.config.wf → ∃ (b : Byte) (t : State),
    exec .trapOut s = .next t ∧ b.toNat = (s.reg 0).toNat % 256 ∧ t.output = s.output ++ [b] ∧ t.input = s.input ∧
      t.status = s.status ∧ TrapKept [] s t

/-- PUTS (R133): the low byte of each word from the address in R0 up to the first zero word, read raw (the low byte is log 14, the
raw read log 13, the link log 5). -/
def Obligations.PutsEmitsUpToZeroWord : Prop :=
  ∀ (s : State) (n : Nat), s.config.wf → (s.reg 0).toNat + n ≤ 65535 →
    (∀ k < n, s.mem.read (s.reg 0 + BitVec.ofNat 16 k) ≠ 0) → s.mem.read (s.reg 0 + BitVec.ofNat 16 n) = 0 →
    ∃ t : State, exec .trapPuts s = .next t ∧
      t.output = s.output ++ (List.range n).map (fun k => (s.mem.read (s.reg 0 + BitVec.ofNat 16 k)).setWidth 8) ∧
      t.input = s.input ∧ t.status = s.status ∧ TrapKept [] s t

/-- PUTSP (R135): as PUTS, the low byte always and then the high byte if it is not zero (the raw read is log 13, the link log 5). -/
def Obligations.PutspEmitsPackedBytes : Prop :=
  ∀ (s : State) (n : Nat), s.config.wf → (s.reg 0).toNat + n ≤ 65535 →
    (∀ k < n, s.mem.read (s.reg 0 + BitVec.ofNat 16 k) ≠ 0) → s.mem.read (s.reg 0 + BitVec.ofNat 16 n) = 0 →
    ∃ t : State, exec .trapPutsp s = .next t ∧
      t.output = s.output ++ (List.range n).flatMap (fun k =>
        let w := s.mem.read (s.reg 0 + BitVec.ofNat 16 k)
        if w.toNat < 256 then [w.setWidth 8] else [w.setWidth 8, (w >>> 8).setWidth 8]) ∧
      t.input = s.input ∧ t.status = s.status ∧ TrapKept [] s t

/-- A string with no zero word up to 0xFFFF ends the run: PUTS and PUTSP emit the bytes of every word up to the one at 0xFFFF
and raise StringOverrun; they never wrap to 0x0000 (R141, the spec's own choice, log 13; PUTS emits low
bytes, log 14; all else is as it was, and the cause's name is the spec's, log 17; the link is log 5). -/
def Obligations.StringPastEndIsFatal : Prop :=
  ∀ s : State, s.config.wf → (∀ k, (s.reg 0).toNat + k ≤ 65535 → s.mem.read (s.reg 0 + BitVec.ofNat 16 k) ≠ 0) →
    (∃ t : State, exec .trapPuts s = .next t ∧ t.status = .fatal .stringOverrun ∧
      t.output = s.output ++ (List.range (65536 - (s.reg 0).toNat)).map
        (fun k => (s.mem.read (s.reg 0 + BitVec.ofNat 16 k)).setWidth 8) ∧
      t.input = s.input ∧ TrapKept [] s t) ∧
    (∃ t : State, exec .trapPutsp s = .next t ∧ t.status = .fatal .stringOverrun ∧
      t.output = s.output ++ (List.range (65536 - (s.reg 0).toNat)).flatMap (fun k =>
        let w := s.mem.read (s.reg 0 + BitVec.ofNat 16 k)
        if w.toNat < 256 then [w.setWidth 8] else [w.setWidth 8, (w >>> 8).setWidth 8]) ∧
      t.input = s.input ∧ TrapKept [] s t)

/-- IN (R134): the prompt, then the byte read, is output; the byte goes into R0 (the prompt's text is the
parameter of log 7; zero extension is log 15, the link log 5). -/
def Obligations.InPromptsReadsAndEchoes : Prop :=
  ∀ (s : State) (c : Byte) (rest : List Byte), s.input = c :: rest →
    ∃ t : State, exec .trapIn s = .next t ∧ (t.reg 0).toNat = c.toNat ∧ t.input = rest ∧
      t.output = s.output ++ s.config.inPrompt ++ [c] ∧ t.status = s.status ∧ TrapKept [0] s t

/-- HALT (R136): status becomes Halted; no output, no byte taken; pc stays at the next instruction (the link is
log 5). -/
def Obligations.HaltSetsTermination : Prop :=
  ∀ s : State, ∃ t : State, exec .trapHalt s = .next t ∧ t.status = .halted ∧ ConsoleKept s t ∧ TrapKept [] s t

/-- TRAP with any vector but the six raises InvalidTrapVector: the status, and the link register only if TRAP_SAVES_LINK
(R137, R151; the frozen state and the cause's name are the spec's own choice, log 17; the link is log 5). -/
def Obligations.UndefinedVectorIsFatal : Prop :=
  ∀ (v : Byte) (s : State), ∃ t : State,
    exec (.trapInvalid v) s = .next t ∧ t.status = .fatal .invalidTrapVector ∧ ConsoleKept s t ∧ TrapKept [] s t

/-- RTI and RESERVED raise InvalidOpcode: the status and nothing else changes (R139, R140, 60_exceptions.md R151; the frozen state
and the cause's name are the spec's own choice, log 17). -/
def Obligations.RtiAndReservedAreFatal : Prop :=
  ∀ s : State,
    exec .rti s = .next { s with status := .fatal .invalidOpcode } ∧
    exec .res s = .next { s with status := .fatal .invalidOpcode }

/-! ### The step (40_step_and_decode.md, 60_exceptions.md) -/

/-- A running machine whose pc is not KBSR runs the instruction its word decodes to, on the state with this step's arrivals in
the input queue and pc incremented; if that instruction waits for input, the machine is held: nothing changes but the
arrivals (R70, R71, R77; logs 20 and 21). -/
def Obligations.StepRunsDecodedInstruction : Prop :=
  ∀ (s : State) (i : Instr), s.status = .running → s.pc ≠ s.config.kbsrAddr → decode s.config (s.mem.read s.pc) = i →
    (exec i { deliver s with pc := s.pc + 1 } ≠ .fault .inputHold →
      step s = exec i { deliver s with pc := s.pc + 1 }) ∧
    (exec i { deliver s with pc := s.pc + 1 } = .fault .inputHold → step s = .next (deliver s))

/-- A fetch from KBSR polls first and runs the updated status word (R71, 20_memory.md R33). With nothing pending that is 0x0000,
and where BR has number 0 (log 9) it is a BR never taken. With a byte pending it is the word with bit 15 set (log 6), run with
the byte taken (log 12) and zero-extended (log 15) in KBDR. If the word run is a blocking read that gets no byte, the machine is
held, the poll undone and only the arrivals delivered (R77; logs 20 and 21). -/
def Obligations.FetchFromKeyboardStatusPolls : Prop :=
  ∀ s : State, s.config.wf → s.status = .running → s.pc = s.config.kbsrAddr →
    let runs (w : Word) (polled : State) : Prop :=
      (exec (decode s.config w) polled ≠ .fault .inputHold → step s = exec (decode s.config w) polled) ∧
      (exec (decode s.config w) polled = .fault .inputHold → step s = .next (deliver s))
    ((deliver s).input = [] → runs 0 { deliver s with mem := s.mem.write s.pc 0, pc := s.pc + 1 }) ∧
    ((deliver s).input = [] → s.config.opcodes.br = 0 →
      ∃ t : State, step s = .next t ∧ t.pc = s.pc + 1 ∧ t.mem.read s.pc = 0 ∧ WordsKeptBut [s.pc] s t ∧
        RegsKeptBut [] s t ∧ t.cond = s.cond ∧ t.status = .running ∧ t.input = [] ∧ t.output = s.output) ∧
    (∀ c rest, (deliver s).input = c :: rest →
      let w : Word := if s.config.kbsrReadyAssigns then 0x8000 else s.mem.read s.pc ||| 0x8000
      runs w
        { deliver s with
            mem := (s.mem.write s.pc w).write s.config.kbdrAddr (c.setWidth 16), input := rest, pc := s.pc + 1 })

/-- GETC and IN wait exactly while no byte is pending, and no other instruction ever waits: every other answers a next state (R77,
R152: no instruction faults in any other way; the fault that stands for the wait is log 20). -/
def Obligations.OnlyBlockingReadsWait : Prop :=
  ∀ (i : Instr) (s : State),
    (((i = .trapGetc ∨ i = .trapIn) ∧ s.input = []) → exec i s = .fault .inputHold) ∧
    (¬ ((i = .trapGetc ∨ i = .trapIn) ∧ s.input = []) → ∃ t : State, exec i s = .next t)

/-- A held machine stays as it is, and goes on as soon as a byte arrives (R77, 95 RUN-3): at a GETC away from KBSR, with an empty
queue, a step without arrivals changes nothing, and a step before which bytes arrive puts the first in R0,
zero-extended (logs 15, 20 and 21). -/
def Obligations.HeldGetcResumesWhenInputArrives : Prop :=
  ∀ (s : State) (c : Byte) (bytes : List Byte), s.status = .running → s.pc ≠ s.config.kbsrAddr →
    decode s.config (s.mem.read s.pc) = .trapGetc → s.input = [] →
    step { s with arrivals := [] } = .next { s with arrivals := [] } ∧
    ∃ t : State, step { s with arrivals := [c :: bytes] } = .next t ∧ (t.reg 0).toNat = c.toNat ∧ t.input = bytes ∧
      t.pc = s.pc + 1

/-- No step is enabled once status is Halted or Fatal: the machine stops under a name that says which, and no next state exists
(R78, 10_state.md R18; the named stop is log 23). -/
def Obligations.EndedRunTakesNoStep : Prop :=
  ∀ s : State,
    (s.status = .halted → step s = .fault .halted) ∧
    (∀ cause, s.status = .fatal cause → step s = .fault (.fatal cause))

/-- How the run status moves, whole machine (10_state.md R18, 70_reset_and_hazards.md R178): from Idle to Idle, Running or Fatal(LoadFailure);
from Running to Running, Halted or Fatal with one of the other three causes; from nowhere else (the boot steps
are log 22, the names of causes log 17). -/
def Obligations.StatusMovesOnlyAsListed : Prop :=
  ∀ s t : State, step s = .next t →
    (s.status = .idle ∧ (t.status = .idle ∨ t.status = .running ∨ t.status = .fatal .loadFailure)) ∨
    (s.status = .running ∧
      (t.status = .running ∨ t.status = .halted ∨ t.status = .fatal .invalidOpcode ∨
        t.status = .fatal .invalidTrapVector ∨ t.status = .fatal .stringOverrun))

/-- A store is seen by the very next fetch (20_memory.md R42): after ST the word fetched from the address stored to, KBSR apart,
is the register's. -/
def Obligations.NextFetchSeesStoredWord : Prop :=
  ∀ (sr : Reg) (off9 : BitVec 9) (s : State), s.pc + sext off9 ≠ s.config.kbsrAddr →
    ∃ t : State, exec (.st sr off9) s = .next t ∧ (fetch { t with pc := s.pc + sext off9 }).1 = s.reg sr

/-! ### Reset, loading, start (70_reset_and_hazards.md) -/

/-- What reset leaves (R170), for every value of the parameters: registers, pc and every word of memory zero, no output, status
Idle, and COND_RESET in the condition register (the status name Idle and the empty queue are logs 22 and 21). And the defaults
of the parameters (00_scope.md R4; logs 4 to 7 and 9). -/
def Obligations.ResetLeavesZeroedIdleMachine : Prop :=
  State.reset = State.resetWith Config.standard ∧
  (∀ config : Config,
    (∀ r, (State.resetWith config).reg r = 0) ∧ (State.resetWith config).pc = 0 ∧
    (∀ a, (State.resetWith config).mem.read a = 0) ∧ (State.resetWith config).output = [] ∧
    (State.resetWith config).status = .idle ∧ (State.resetWith config).cond = config.condReset ∧
    (State.resetWith config).config = config) ∧
  Config.standard.opcodes.all = [0, 1, 2, 3, 4, 5, 6, 7, 8, 9, 10, 11, 12, 13, 14, 15] ∧
  Config.standard.vectors.all = [0x20, 0x21, 0x22, 0x23, 0x24, 0x25] ∧
  Config.standard.layout =
    { dr := 9, sr1 := 6, sr2 := 0, imode := 5, imm5 := 0, jmode := 11, off6 := 0, off9 := 0, off11 := 0 } ∧
  (Config.standard.flagN, Config.standard.flagZ, Config.standard.flagP) = (0b100, 0b010, 0b001) ∧
  Config.standard.linkReg = 7 ∧ Config.standard.kbsrAddr = 0xFE00 ∧ Config.standard.kbdrAddr = 0xFE02 ∧
  Config.standard.condReset = 0b000 ∧ Config.standard.trapSavesLink = false ∧
  Config.standard.kbsrReadyAssigns = false ∧
  Config.standard.inPrompt = "Enter a character: ".toList.map (fun c => BitVec.ofNat 8 c.toNat)

/-- The loader (R172, R173): words are big-endian, the first the origin, the others placed from it on up to 0xFFFF without wrap; every
other word stays; a stream without an origin word writes nothing. (The edges are the spec's own choice, log 18.) -/
def Obligations.LoaderPlacesBigEndianWords : Prop :=
  (∀ (hi lo : Byte) (body : List Byte) (m : Memory) (a : Word),
    let origin := 256 * hi.toNat + lo.toNat
    let n := min (body.length / 2) (65536 - origin)
    ((loadImage (hi :: lo :: body) m).read a).toNat =
      if origin ≤ a.toNat ∧ a.toNat < origin + n then
        256 * (body.getD (2 * (a.toNat - origin)) 0).toNat + (body.getD (2 * (a.toNat - origin) + 1) 0).toNat
      else (m.read a).toNat) ∧
  (∀ (bytes : List Byte) (m : Memory), bytes.length < 2 → loadImage bytes m = m)

/-- The boot order (R171, R174, R176), run as steps (log 22): from an idle machine with readable images and no input scripted, one
step an image loads them in order and one more starts at 0x3000; registers, flags and console are as they were. -/
def Obligations.BootLoadsImagesInOrderThenStarts : Prop :=
  ∀ (s : State) (images : List (List Byte)), s.status = .idle → s.arrivals = [] →
    Host.Core.run core (images.length + 1) { s with images := images.map some } =
      .next { s with
        images := [], mem := images.foldl (fun m image => loadImage image m) s.mem, pc := 0x3000, status := .running }

/-- An unreadable image is fatal from Idle, and no instruction runs (R175; logs 17 and 22). -/
def Obligations.UnreadableImageIsFatal : Prop :=
  ∀ (s : State) (rest : List Image), s.status = .idle → s.images = none :: rest →
    ∃ t : State, step s = .next t ∧ t.status = .fatal .loadFailure ∧ RegsKeptBut [] s t ∧ WordsKeptBut [] s t ∧
      t.pc = s.pc ∧ t.cond = s.cond ∧ t.output = s.output

/-! ### Whole-machine rules -/

/-- The invariant holds right after reset, for all parameters that make one machine, and the defaults of R4 do (log 26). -/
def Obligations.ResetMeetsInvariant : Prop :=
  (∀ config : Config, config.wf → StateInv (State.resetWith config)) ∧ StateInv State.reset

/-- Every step keeps the invariant: parameters of one machine (log 26), memory canonical (log 1), the condition register without
two flags (10_state.md R15, R19). -/
def Obligations.EveryStepKeepsInvariant : Prop := ∀ s t : State, StateInv s → step s = .next t → StateInv t

/-- From the first flag-setting instruction onward exactly one flag holds: a step from a state with exactly one flag leaves
exactly one (10_state.md R15 as 90 C1 reads it). -/
def Obligations.ExactlyOneFlagIsKept : Prop := ∀ s t : State, oneFlag s → step s = .next t → oneFlag t

/-- The condition register is written by exactly the seven instructions with a destination register, and then holds the sign class
of that register's value; GETC, IN, JSR and JSRR write registers and leave it (10_state.md R17, 90 C2;
log 2). -/
def Obligations.FlagsFollowDestinationRegisterOnly : Prop :=
  ∀ (i : Instr) (s t : State), exec i s = .next t →
    match destReg i with
    | some dr => t.cond = signClass s.config (t.reg dr)
    | none => t.cond = s.cond

/-- Each instruction writes only the general registers that the table of R76 lists for it, whole machine (the link of TRAP is log 5). -/
def Obligations.OnlyListedRegistersAreWritten : Prop :=
  ∀ (i : Instr) (s t : State), exec i s = .next t → RegsKeptBut (writtenRegs i s.config) s t

/-- Only BR, JMP, JSR and JSRR write pc after the fetch (10_state.md R14). -/
def Obligations.OnlyControlTransfersWritePc : Prop :=
  ∀ (i : Instr) (s t : State), exec i s = .next t → writesPc i = false → t.pc = s.pc

/-- Memory changes only at the address a store computes, and at the two keyboard words where the instruction reads KBSR (20_memory.md
R34, R44): every other word reads as before. -/
def Obligations.MemoryChangesOnlyAtStoresAndPolls : Prop :=
  ∀ (i : Instr) (s t : State), exec i s = .next t → ∀ a : Word,
    storeTarget i s ≠ some a → (s.config.kbsrAddr ∈ readAddrs i s → a ≠ s.config.kbsrAddr ∧ a ≠ s.config.kbdrAddr) →
      t.mem.read a = s.mem.read a

/-- Console input is taken only by GETC, IN and reads of KBSR; output is made only by OUT, PUTS, IN and PUTSP (10_state.md R21,
60_exceptions.md R160, 20_memory.md R34: no store makes output). -/
def Obligations.ConsoleTouchedOnlyByItsUsers : Prop :=
  ∀ (i : Instr) (s t : State), exec i s = .next t →
    (i ≠ .trapGetc → i ≠ .trapIn → s.config.kbsrAddr ∉ readAddrs i s → t.input = s.input) ∧
    (i ≠ .trapOut → i ≠ .trapPuts → i ≠ .trapIn → i ≠ .trapPutsp → t.output = s.output)

/-- Which instruction raises which fatal condition: RTI and RESERVED, an undefined vector, a string overrun, and nothing else
(60_exceptions.md R152; the names of causes are log 17). -/
def Obligations.FatalOnlyFromListedCauses : Prop :=
  ∀ (i : Instr) (s t : State) (cause : Cause), s.status = .running → exec i s = .next t → t.status = .fatal cause →
    (cause = .invalidOpcode ∧ (i = .rti ∨ i = .res)) ∨
    (cause = .invalidTrapVector ∧ ∃ v, i = .trapInvalid v) ∨
    (cause = .stringOverrun ∧ (i = .trapPuts ∨ i = .trapPutsp))

/-- The output log is append-only and the input queue is consumed from the front: after any step the output begins with what it was, and
the input is a suffix of what was pending and arrived (10_state.md R10, R21; 00_scope.md R7; the arrivals are log 21). -/
def Obligations.ConsoleLogsMoveForwardOnly : Prop :=
  ∀ s t : State, step s = .next t →
    s.output <+: t.output ∧ t.input <:+ s.input ++ s.arrivals.headD []

/-- The parameters of a machine are fixed: no step writes them (10_state.md R22; log 3). -/
def Obligations.ParametersNeverChange : Prop := ∀ s t : State, step s = .next t → t.config = s.config

/-- What was printed cannot be read back: a step does the same whatever the output log holds, and appends the same bytes
(00_scope.md R7, 10_state.md R10). -/
def Obligations.OutputLogIsWriteOnly : Prop :=
  ∀ (s : State) (before : List Byte),
    step { s with output := before ++ s.output } = prependOutput before (step s)

/-- The keyboard reaches a program only through KBSR, GETC and IN: any other instruction does the same whatever input is pending, and
leaves it pending (10_state.md R21, 20_memory.md R32; the number of KBSR is a parameter, log 9). A statement about `exec` alone. -/
def Obligations.KeyboardSeenOnlyThroughPollsAndReads : Prop :=
  ∀ (i : Instr) (s : State) (pending : List Byte), i ≠ .trapGetc → i ≠ .trapIn → s.config.kbsrAddr ∉ readAddrs i s →
    exec i { s with input := pending } = withInput pending (exec i s)
end

