-- ==== Sys2Proof/Laws/Decode.lean ====
section
/-! SUPPORT. How a field reads from a word it was put into and from an encoded instruction, and what each operation number and
vector selects. -/

namespace Sys2Proof

/-- One bit of a word with a field put into it: the field's own inside it, the word's elsewhere. -/
theorem getLsbD_putField {n : Nat} (lo : Nat) (f : BitVec n) (w : Word) (k : Nat) (hk : k < 16) :
    (putField lo f w).getLsbD k = if lo ≤ k ∧ k < lo + n then f.getLsbD (k - lo) else w.getLsbD k := by
  by_cases hlo : lo ≤ k
  · by_cases hn : k < lo + n
    · have h1 : ¬ k < lo := by omega
      have h2 : k - lo < n := by omega
      simp [putField, hk, hlo, hn, h1, h2]
    · have h1 : ¬ k < lo := by omega
      have h2 : ¬ k - lo < n := by omega
      have h3 : f.getLsbD (k - lo) = false := BitVec.getLsbD_of_ge f _ (by omega)
      simp [putField, hk, hlo, hn, h1, h2, h3]
  · have h1 : k < lo := by omega
    simp [putField, hk, hlo, h1]

/-- A field reads as it was put. -/
theorem extract_putField {n : Nat} (lo : Nat) (f : BitVec n) (w : Word) (h : lo + n ≤ 16) :
    (putField lo f w).extractLsb' lo n = f := by
  apply BitVec.eq_of_getLsbD_eq
  intro j hj
  have hb : lo ≤ lo + j ∧ lo + j < lo + n := by omega
  rw [BitVec.getLsbD_extractLsb', getLsbD_putField _ _ _ _ (by omega), if_pos hb]
  simp [hj]

/-- A field apart from the one put reads as before. -/
theorem extract_putField_apart {n m : Nat} (lo lo' : Nat) (f : BitVec n) (w : Word) (h : Layout.apart lo n lo' m)
    (hm : lo' + m ≤ 16) : (putField lo f w).extractLsb' lo' m = w.extractLsb' lo' m := by
  apply BitVec.eq_of_getLsbD_eq
  intro j hj
  have hb : ¬ (lo ≤ lo' + j ∧ lo' + j < lo + n) := by rcases h with h | h <;> omega
  rw [BitVec.getLsbD_extractLsb', BitVec.getLsbD_extractLsb', getLsbD_putField _ _ _ _ (by omega), if_neg hb]

/-- A field wholly inside the low one of two bit strings laid side by side. -/
theorem extract_append_low {m n : Nat} (hi : BitVec m) (lo : BitVec n) (k w : Nat) (h : k + w ≤ n) :
    (hi ++ lo).extractLsb' k w = lo.extractLsb' k w := by
  apply BitVec.eq_of_getLsbD_eq
  intro j hj
  have hb : k + j < n := by omega
  simp [BitVec.getLsbD_append, hj, hb]

/-- A field wholly inside the high one. -/
theorem extract_append_high {m n : Nat} (hi : BitVec m) (lo : BitVec n) (k w : Nat) (h : n ≤ k) :
    (hi ++ lo).extractLsb' k w = hi.extractLsb' (k - n) w := by
  apply BitVec.eq_of_getLsbD_eq
  intro j hj
  have hb : ¬ k + j < n := by omega
  have he : k + j - n = k - n + j := by omega
  simp [BitVec.getLsbD_append, hj, hb, he]

/-- The whole of a bit string, read as a field. -/
theorem extract_all {n : Nat} (f : BitVec n) : f.extractLsb' 0 n = f := by
  apply BitVec.eq_of_getLsbD_eq
  intro j hj
  simp [hj]

/-- The opcode field of an encoded instruction (30_encoding.md R50). -/
theorem encode_opcode (c : Config) (i : Instr) : fieldOpcode (encode c i) = i.opcode c.opcodes :=
  extract_putField 12 (i.opcode c.opcodes) _ (by omega)

/-- A field below the opcode is a field of the operand word. -/
theorem encode_field (c : Config) (i : Instr) (lo m : Nat) (h : lo + m ≤ 12) :
    (encode c i).extractLsb' lo m = (i.operandWord c).extractLsb' lo m :=
  extract_putField_apart 12 lo (i.opcode c.opcodes) _ (Or.inr (by omega)) (by omega)

/-- Two operations at different places of R52's order have different numbers. -/
theorem Opcodes.ne_of_wf (o : Opcodes) (h : o.wf) (j k : Fin 16) (hkj : (k.val != j.val) = true) :
    o.all.get j ≠ o.all.get k := fun e => by
  have := (List.Nodup.get_inj_iff h).1 e
  simp [this] at hkj

/-! What each operation number selects, the 16 numbers being different (R52, R75). -/

theorem decodeOperation_br (c : Config) (ir : Word) :
    decodeOperation c c.opcodes.br ir =
      .br (fieldDr c.layout ir) (offset9 c.layout ir) :=
  if_pos rfl

theorem decodeOperation_add (c : Config) (h : c.opcodes.wf) (ir : Word) :
    decodeOperation c c.opcodes.add ir =
      if fieldImode c.layout ir = 1 then .addImm (fieldDr c.layout ir) (fieldSr1 c.layout ir) (fieldImm5 c.layout ir)
      else .add (fieldDr c.layout ir) (fieldSr1 c.layout ir) (fieldSr2 c.layout ir) :=
  (if_neg (c.opcodes.ne_of_wf h 1 0 rfl)).trans (if_pos rfl)

theorem decodeOperation_ld (c : Config) (h : c.opcodes.wf) (ir : Word) :
    decodeOperation c c.opcodes.ld ir =
      .ld (fieldDr c.layout ir) (offset9 c.layout ir) :=
  (if_neg (c.opcodes.ne_of_wf h 2 0 rfl)).trans <| (if_neg (c.opcodes.ne_of_wf h 2 1 rfl)).trans (if_pos rfl)

theorem decodeOperation_st (c : Config) (h : c.opcodes.wf) (ir : Word) :
    decodeOperation c c.opcodes.st ir =
      .st (fieldDr c.layout ir) (offset9 c.layout ir) :=
  (if_neg (c.opcodes.ne_of_wf h 3 0 rfl)).trans <| (if_neg (c.opcodes.ne_of_wf h 3 1 rfl)).trans <|
  (if_neg (c.opcodes.ne_of_wf h 3 2 rfl)).trans (if_pos rfl)

theorem decodeOperation_jsr (c : Config) (h : c.opcodes.wf) (ir : Word) :
    decodeOperation c c.opcodes.jsr ir =
      if fieldJmode c.layout ir = 1 then .jsr (offset11 c.layout ir) else .jsrr (fieldSr1 c.layout ir) :=
  (if_neg (c.opcodes.ne_of_wf h 4 0 rfl)).trans <| (if_neg (c.opcodes.ne_of_wf h 4 1 rfl)).trans <|
  (if_neg (c.opcodes.ne_of_wf h 4 2 rfl)).trans <| (if_neg (c.opcodes.ne_of_wf h 4 3 rfl)).trans (if_pos rfl)

theorem decodeOperation_and (c : Config) (h : c.opcodes.wf) (ir : Word) :
    decodeOperation c c.opcodes.and ir =
      if fieldImode c.layout ir = 1 then .andImm (fieldDr c.layout ir) (fieldSr1 c.layout ir) (fieldImm5 c.layout ir)
      else .and (fieldDr c.layout ir) (fieldSr1 c.layout ir) (fieldSr2 c.layout ir) :=
  (if_neg (c.opcodes.ne_of_wf h 5 0 rfl)).trans <| (if_neg (c.opcodes.ne_of_wf h 5 1 rfl)).trans <|
  (if_neg (c.opcodes.ne_of_wf h 5 2 rfl)).trans <| (if_neg (c.opcodes.ne_of_wf h 5 3 rfl)).trans <|
  (if_neg (c.opcodes.ne_of_wf h 5 4 rfl)).trans (if_pos rfl)

theorem decodeOperation_ldr (c : Config) (h : c.opcodes.wf) (ir : Word) :
    decodeOperation c c.opcodes.ldr ir =
      .ldr (fieldDr c.layout ir) (fieldSr1 c.layout ir) (offset6 c.layout ir) :=
  (if_neg (c.opcodes.ne_of_wf h 6 0 rfl)).trans <| (if_neg (c.opcodes.ne_of_wf h 6 1 rfl)).trans <|
  (if_neg (c.opcodes.ne_of_wf h 6 2 rfl)).trans <| (if_neg (c.opcodes.ne_of_wf h 6 3 rfl)).trans <|
  (if_neg (c.opcodes.ne_of_wf h 6 4 rfl)).trans <| (if_neg (c.opcodes.ne_of_wf h 6 5 rfl)).trans (if_pos rfl)

theorem decodeOperation_str (c : Config) (h : c.opcodes.wf) (ir : Word) :
    decodeOperation c c.opcodes.str ir =
      .str (fieldDr c.layout ir) (fieldSr1 c.layout ir) (offset6 c.layout ir) :=
  (if_neg (c.opcodes.ne_of_wf h 7 0 rfl)).trans <| (if_neg (c.opcodes.ne_of_wf h 7 1 rfl)).trans <|
  (if_neg (c.opcodes.ne_of_wf h 7 2 rfl)).trans <| (if_neg (c.opcodes.ne_of_wf h 7 3 rfl)).trans <|
  (if_neg (c.opcodes.ne_of_wf h 7 4 rfl)).trans <| (if_neg (c.opcodes.ne_of_wf h 7 5 rfl)).trans <|
  (if_neg (c.opcodes.ne_of_wf h 7 6 rfl)).trans (if_pos rfl)

theorem decodeOperation_rti (c : Config) (h : c.opcodes.wf) (ir : Word) :
    decodeOperation c c.opcodes.rti ir =
      .rti :=
  (if_neg (c.opcodes.ne_of_wf h 8 0 rfl)).trans <| (if_neg (c.opcodes.ne_of_wf h 8 1 rfl)).trans <|
  (if_neg (c.opcodes.ne_of_wf h 8 2 rfl)).trans <| (if_neg (c.opcodes.ne_of_wf h 8 3 rfl)).trans <|
  (if_neg (c.opcodes.ne_of_wf h 8 4 rfl)).trans <| (if_neg (c.opcodes.ne_of_wf h 8 5 rfl)).trans <|
  (if_neg (c.opcodes.ne_of_wf h 8 6 rfl)).trans <| (if_neg (c.opcodes.ne_of_wf h 8 7 rfl)).trans (if_pos rfl)

theorem decodeOperation_not (c : Config) (h : c.opcodes.wf) (ir : Word) :
    decodeOperation c c.opcodes.not ir =
      .not (fieldDr c.layout ir) (fieldSr1 c.layout ir) :=
  (if_neg (c.opcodes.ne_of_wf h 9 0 rfl)).trans <| (if_neg (c.opcodes.ne_of_wf h 9 1 rfl)).trans <|
  (if_neg (c.opcodes.ne_of_wf h 9 2 rfl)).trans <| (if_neg (c.opcodes.ne_of_wf h 9 3 rfl)).trans <|
  (if_neg (c.opcodes.ne_of_wf h 9 4 rfl)).trans <| (if_neg (c.opcodes.ne_of_wf h 9 5 rfl)).trans <|
  (if_neg (c.opcodes.ne_of_wf h 9 6 rfl)).trans <| (if_neg (c.opcodes.ne_of_wf h 9 7 rfl)).trans <|
  (if_neg (c.opcodes.ne_of_wf h 9 8 rfl)).trans (if_pos rfl)

theorem decodeOperation_ldi (c : Config) (h : c.opcodes.wf) (ir : Word) :
    decodeOperation c c.opcodes.ldi ir =
      .ldi (fieldDr c.layout ir) (offset9 c.layout ir) :=
  (if_neg (c.opcodes.ne_of_wf h 10 0 rfl)).trans <| (if_neg (c.opcodes.ne_of_wf h 10 1 rfl)).trans <|
  (if_neg (c.opcodes.ne_of_wf h 10 2 rfl)).trans <| (if_neg (c.opcodes.ne_of_wf h 10 3 rfl)).trans <|
  (if_neg (c.opcodes.ne_of_wf h 10 4 rfl)).trans <| (if_neg (c.opcodes.ne_of_wf h 10 5 rfl)).trans <|
  (if_neg (c.opcodes.ne_of_wf h 10 6 rfl)).trans <| (if_neg (c.opcodes.ne_of_wf h 10 7 rfl)).trans <|
  (if_neg (c.opcodes.ne_of_wf h 10 8 rfl)).trans <| (if_neg (c.opcodes.ne_of_wf h 10 9 rfl)).trans (if_pos rfl)

theorem decodeOperation_sti (c : Config) (h : c.opcodes.wf) (ir : Word) :
    decodeOperation c c.opcodes.sti ir =
      .sti (fieldDr c.layout ir) (offset9 c.layout ir) :=
  (if_neg (c.opcodes.ne_of_wf h 11 0 rfl)).trans <| (if_neg (c.opcodes.ne_of_wf h 11 1 rfl)).trans <|
  (if_neg (c.opcodes.ne_of_wf h 11 2 rfl)).trans <| (if_neg (c.opcodes.ne_of_wf h 11 3 rfl)).trans <|
  (if_neg (c.opcodes.ne_of_wf h 11 4 rfl)).trans <| (if_neg (c.opcodes.ne_of_wf h 11 5 rfl)).trans <|
  (if_neg (c.opcodes.ne_of_wf h 11 6 rfl)).trans <| (if_neg (c.opcodes.ne_of_wf h 11 7 rfl)).trans <|
  (if_neg (c.opcodes.ne_of_wf h 11 8 rfl)).trans <| (if_neg (c.opcodes.ne_of_wf h 11 9 rfl)).trans <|
  (if_neg (c.opcodes.ne_of_wf h 11 10 rfl)).trans (if_pos rfl)

theorem decodeOperation_jmp (c : Config) (h : c.opcodes.wf) (ir : Word) :
    decodeOperation c c.opcodes.jmp ir =
      .jmp (fieldSr1 c.layout ir) :=
  (if_neg (c.opcodes.ne_of_wf h 12 0 rfl)).trans <| (if_neg (c.opcodes.ne_of_wf h 12 1 rfl)).trans <|
  (if_neg (c.opcodes.ne_of_wf h 12 2 rfl)).trans <| (if_neg (c.opcodes.ne_of_wf h 12 3 rfl)).trans <|
  (if_neg (c.opcodes.ne_of_wf h 12 4 rfl)).trans <| (if_neg (c.opcodes.ne_of_wf h 12 5 rfl)).trans <|
  (if_neg (c.opcodes.ne_of_wf h 12 6 rfl)).trans <| (if_neg (c.opcodes.ne_of_wf h 12 7 rfl)).trans <|
  (if_neg (c.opcodes.ne_of_wf h 12 8 rfl)).trans <| (if_neg (c.opcodes.ne_of_wf h 12 9 rfl)).trans <|
  (if_neg (c.opcodes.ne_of_wf h 12 10 rfl)).trans <| (if_neg (c.opcodes.ne_of_wf h 12 11 rfl)).trans (if_pos rfl)

theorem decodeOperation_res (c : Config) (h : c.opcodes.wf) (ir : Word) :
    decodeOperation c c.opcodes.res ir =
      .res :=
  (if_neg (c.opcodes.ne_of_wf h 13 0 rfl)).trans <| (if_neg (c.opcodes.ne_of_wf h 13 1 rfl)).trans <|
  (if_neg (c.opcodes.ne_of_wf h 13 2 rfl)).trans <| (if_neg (c.opcodes.ne_of_wf h 13 3 rfl)).trans <|
  (if_neg (c.opcodes.ne_of_wf h 13 4 rfl)).trans <| (if_neg (c.opcodes.ne_of_wf h 13 5 rfl)).trans <|
  (if_neg (c.opcodes.ne_of_wf h 13 6 rfl)).trans <| (if_neg (c.opcodes.ne_of_wf h 13 7 rfl)).trans <|
  (if_neg (c.opcodes.ne_of_wf h 13 8 rfl)).trans <| (if_neg (c.opcodes.ne_of_wf h 13 9 rfl)).trans <|
  (if_neg (c.opcodes.ne_of_wf h 13 10 rfl)).trans <| (if_neg (c.opcodes.ne_of_wf h 13 11 rfl)).trans <|
  (if_neg (c.opcodes.ne_of_wf h 13 12 rfl)).trans (if_pos rfl)

theorem decodeOperation_lea (c : Config) (h : c.opcodes.wf) (ir : Word) :
    decodeOperation c c.opcodes.lea ir =
      .lea (fieldDr c.layout ir) (offset9 c.layout ir) :=
  (if_neg (c.opcodes.ne_of_wf h 14 0 rfl)).trans <| (if_neg (c.opcodes.ne_of_wf h 14 1 rfl)).trans <|
  (if_neg (c.opcodes.ne_of_wf h 14 2 rfl)).trans <| (if_neg (c.opcodes.ne_of_wf h 14 3 rfl)).trans <|
  (if_neg (c.opcodes.ne_of_wf h 14 4 rfl)).trans <| (if_neg (c.opcodes.ne_of_wf h 14 5 rfl)).trans <|
  (if_neg (c.opcodes.ne_of_wf h 14 6 rfl)).trans <| (if_neg (c.opcodes.ne_of_wf h 14 7 rfl)).trans <|
  (if_neg (c.opcodes.ne_of_wf h 14 8 rfl)).trans <| (if_neg (c.opcodes.ne_of_wf h 14 9 rfl)).trans <|
  (if_neg (c.opcodes.ne_of_wf h 14 10 rfl)).trans <| (if_neg (c.opcodes.ne_of_wf h 14 11 rfl)).trans <|
  (if_neg (c.opcodes.ne_of_wf h 14 12 rfl)).trans <| (if_neg (c.opcodes.ne_of_wf h 14 13 rfl)).trans (if_pos rfl)

theorem decodeOperation_trap (c : Config) (h : c.opcodes.wf) (ir : Word) :
    decodeOperation c c.opcodes.trap ir =
      decodeTrap c.vectors (fieldVect8 ir) :=
  (if_neg (c.opcodes.ne_of_wf h 15 0 rfl)).trans <| (if_neg (c.opcodes.ne_of_wf h 15 1 rfl)).trans <|
  (if_neg (c.opcodes.ne_of_wf h 15 2 rfl)).trans <| (if_neg (c.opcodes.ne_of_wf h 15 3 rfl)).trans <|
  (if_neg (c.opcodes.ne_of_wf h 15 4 rfl)).trans <| (if_neg (c.opcodes.ne_of_wf h 15 5 rfl)).trans <|
  (if_neg (c.opcodes.ne_of_wf h 15 6 rfl)).trans <| (if_neg (c.opcodes.ne_of_wf h 15 7 rfl)).trans <|
  (if_neg (c.opcodes.ne_of_wf h 15 8 rfl)).trans <| (if_neg (c.opcodes.ne_of_wf h 15 9 rfl)).trans <|
  (if_neg (c.opcodes.ne_of_wf h 15 10 rfl)).trans <| (if_neg (c.opcodes.ne_of_wf h 15 11 rfl)).trans <|
  (if_neg (c.opcodes.ne_of_wf h 15 12 rfl)).trans <| (if_neg (c.opcodes.ne_of_wf h 15 13 rfl)).trans <|
  (if_neg (c.opcodes.ne_of_wf h 15 14 rfl)).trans rfl

/-- A vector that names no routine (44_trap_system.md R137). -/
theorem decodeTrap_undefined (v : Vectors) (vect8 : Byte) (h : vect8 ∉ v.all) : decodeTrap v vect8 = .trapInvalid vect8 := by
  simp only [Vectors.all, List.mem_cons, List.not_mem_nil, or_false, not_or] at h
  simp [decodeTrap, h]

/-- The six vectors name the six routines, being different (R130). -/
theorem decodeTrap_defined (v : Vectors) (h : v.wf) :
    decodeTrap v v.getc = .trapGetc ∧ decodeTrap v v.out = .trapOut ∧ decodeTrap v v.puts = .trapPuts ∧
      decodeTrap v v.input = .trapIn ∧ decodeTrap v v.putsp = .trapPutsp ∧ decodeTrap v v.halt = .trapHalt := by
  have hs : ∀ a b : Byte, ¬ a = b → ¬ b = a := fun _ _ hab e => hab e.symm
  simp only [Vectors.wf, Vectors.all, List.nodup_cons, List.mem_cons, List.not_mem_nil, or_false, not_or] at h
  obtain ⟨⟨h1, h2, h3, h4, h5⟩, ⟨h6, h7, h8, h9⟩, ⟨h10, h11, h12⟩, ⟨h13, h14⟩, h15, -⟩ := h
  simp [decodeTrap, hs _ _ h1, hs _ _ h2, hs _ _ h3, hs _ _ h4, hs _ _ h5, hs _ _ h6, hs _ _ h7, hs _ _ h8, hs _ _ h9,
    hs _ _ h10, hs _ _ h11, hs _ _ h12, hs _ _ h13, hs _ _ h14, hs _ _ h15]


end Sys2Proof
end

