-- ==== Sys2Proof/Laws/Memory.lean ====
section
/-! SUPPORT. The laws of the stored memory: a read after a write, for every list; and every
operation keeps the canonical form. -/

namespace Sys2Proof.Machine

@[simp] theorem Memory.lookup_nil (a : Nat) : Memory.lookup [] a = 0 := rfl

theorem Memory.lookup_cons (c : Cell) (m : Memory) (a : Nat) :
    Memory.lookup (c :: m) a = if c.1 = a then c.2 else Memory.lookup m a := rfl

theorem Memory.lookup_eq_zero (m : Memory) (a : Nat) (h : ∀ c ∈ m, c.1 ≠ a) : m.lookup a = 0 := by
  induction m with
  | nil => rfl
  | cons c m ih =>
    rw [Memory.lookup_cons, if_neg (h c (by simp)), ih fun d hd => h d (by simp [hd])]

theorem Memory.lookup_erase (m : Memory) (a b : Nat) : (m.erase a).lookup b = if b = a then 0 else m.lookup b := by
  induction m with
  | nil => simp [Memory.erase]
  | cons c m ih =>
    simp only [Memory.erase] at ih ⊢
    by_cases h : c.1 = a
    · rw [List.filter_cons_of_neg (by simp [h]), ih, Memory.lookup_cons]
      by_cases hb : b = a
      · simp [hb]
      · simp [hb, show c.1 ≠ b by omega]
    · rw [List.filter_cons_of_pos (by simp [h]), Memory.lookup_cons, Memory.lookup_cons, ih]
      by_cases hb : b = a
      · simp [hb, h]
      · simp [hb]

theorem Memory.not_mem_erase (m : Memory) (a : Nat) : ∀ c ∈ m.erase a, c.1 ≠ a := by
  intro c hc
  simpa using (List.mem_filter.1 hc).2

theorem Memory.lookup_insert (a : Nat) (v : Word) (m : Memory) (b : Nat) (h : ∀ c ∈ m, c.1 ≠ a) :
    (Memory.insert a v m).lookup b = if b = a then v else m.lookup b := by
  induction m with
  | nil => simp [Memory.insert, Memory.lookup_cons, eq_comm]
  | cons c m ih =>
    have hc := h c (by simp)
    have ih := ih fun d hd => h d (by simp [hd])
    simp only [Memory.insert]
    split
    · rw [Memory.lookup_cons, Memory.lookup_cons, ih]
      by_cases hb : b = a
      · simp [hb, hc]
      · simp [hb]
    · rw [Memory.lookup_cons]
      simp [eq_comm]

/-- A read after a write: the value written at that address, and every other word as before (20_memory.md R30, R34). -/
theorem Memory.read_write (m : Memory) (a v b : Word) : (m.write a v).read b = if b = a then v else m.read b := by
  simp only [Memory.read, Memory.write]
  have hab : b.toNat = a.toNat ↔ b = a := BitVec.toNat_inj
  split
  · rename_i hv
    rw [Memory.lookup_erase]
    simp [hab, hv]
  · rw [Memory.lookup_insert _ _ _ _ (Memory.not_mem_erase m a.toNat), Memory.lookup_erase]
    by_cases hb : b = a
    · simp [hb]
    · simp [hab, hb]

theorem Memory.read_write_same (m : Memory) (a v : Word) : (m.write a v).read a = v := by
  simp [Memory.read_write]

theorem Memory.read_write_other (m : Memory) (a v b : Word) (h : b ≠ a) : (m.write a v).read b = m.read b := by
  simp [Memory.read_write, h]

@[simp] theorem Memory.wf_nil : Memory.wf [] := by simp [Memory.wf]

theorem Memory.wf_erase (m : Memory) (a : Nat) (h : m.wf) : (m.erase a).wf :=
  ⟨h.1.filter _, fun c hc => h.2 c (List.mem_filter.1 hc).1⟩

theorem Memory.mem_insert (a : Nat) (v : Word) (m : Memory) (c : Cell) :
    c ∈ Memory.insert a v m ↔ c = (a, v) ∨ c ∈ m := by
  induction m with
  | nil => simp [Memory.insert]
  | cons d m ih =>
    simp only [Memory.insert]
    split
    · simp only [List.mem_cons, ih]
      tauto
    · simp

theorem Memory.pairwise_insert (a : Nat) (v : Word) (m : Memory) (h : m.Pairwise (fun c d => c.1 < d.1))
    (ha : ∀ c ∈ m, c.1 ≠ a) : (Memory.insert a v m).Pairwise (fun c d => c.1 < d.1) := by
  induction m with
  | nil => simp [Memory.insert]
  | cons c m ih =>
    rw [List.pairwise_cons] at h
    have hc := ha c (by simp)
    simp only [Memory.insert]
    split
    · rename_i hlt
      refine List.pairwise_cons.2 ⟨fun d hd => ?_, ih h.2 fun d hd => ha d (by simp [hd])⟩
      rcases (Memory.mem_insert a v m d).1 hd with rfl | hd
      · exact hlt
      · exact h.1 d hd
    · have hac : a < c.1 := by omega
      refine List.pairwise_cons.2 ⟨fun d hd => ?_, List.pairwise_cons.2 h⟩
      rcases List.mem_cons.1 hd with rfl | hd
      · exact hac
      · exact lt_trans hac (h.1 d hd)

/-- Every write keeps the canonical form. -/
theorem Memory.wf_write (m : Memory) (a v : Word) (h : m.wf) : (m.write a v).wf := by
  simp only [Memory.write]
  have he := Memory.wf_erase m a.toNat h
  split
  · exact he
  · rename_i hv
    refine ⟨Memory.pairwise_insert _ _ _ he.1 (Memory.not_mem_erase m a.toNat), fun c hc => ?_⟩
    rcases (Memory.mem_insert _ _ _ c).1 hc with rfl | hc
    · exact ⟨a.isLt, hv⟩
    · exact he.2 c hc

end Sys2Proof.Machine
end

