-- ==== Sys2Proof/Laws/State.lean ====
section
/-! SUPPORT. One lemma per field per update, so that no proof unfolds a record update; and the register file's law. -/

namespace Sys2Proof.Machine

@[simp] theorem setcc_regs (v : Word) (s : State) : (setcc v s).regs = s.regs := rfl
@[simp] theorem setcc_pc (v : Word) (s : State) : (setcc v s).pc = s.pc := rfl
@[simp] theorem setcc_cond (v : Word) (s : State) : (setcc v s).cond = flagsOf s.config v := rfl
@[simp] theorem setcc_mem (v : Word) (s : State) : (setcc v s).mem = s.mem := rfl
@[simp] theorem setcc_status (v : Word) (s : State) : (setcc v s).status = s.status := rfl
@[simp] theorem setcc_input (v : Word) (s : State) : (setcc v s).input = s.input := rfl
@[simp] theorem setcc_output (v : Word) (s : State) : (setcc v s).output = s.output := rfl
@[simp] theorem setcc_config (v : Word) (s : State) : (setcc v s).config = s.config := rfl
@[simp] theorem setcc_images (v : Word) (s : State) : (setcc v s).images = s.images := rfl
@[simp] theorem setcc_arrivals (v : Word) (s : State) : (setcc v s).arrivals = s.arrivals := rfl

@[simp] theorem State.setReg_regs (s : State) (r : Reg) (v : Word) : (s.setReg r v).regs = s.regs.set r.toNat v := rfl
@[simp] theorem State.setReg_pc (s : State) (r : Reg) (v : Word) : (s.setReg r v).pc = s.pc := rfl
@[simp] theorem State.setReg_cond (s : State) (r : Reg) (v : Word) : (s.setReg r v).cond = s.cond := rfl
@[simp] theorem State.setReg_mem (s : State) (r : Reg) (v : Word) : (s.setReg r v).mem = s.mem := rfl
@[simp] theorem State.setReg_status (s : State) (r : Reg) (v : Word) : (s.setReg r v).status = s.status := rfl
@[simp] theorem State.setReg_input (s : State) (r : Reg) (v : Word) : (s.setReg r v).input = s.input := rfl
@[simp] theorem State.setReg_output (s : State) (r : Reg) (v : Word) : (s.setReg r v).output = s.output := rfl
@[simp] theorem State.setReg_config (s : State) (r : Reg) (v : Word) : (s.setReg r v).config = s.config := rfl
@[simp] theorem State.setReg_images (s : State) (r : Reg) (v : Word) : (s.setReg r v).images = s.images := rfl
@[simp] theorem State.setReg_arrivals (s : State) (r : Reg) (v : Word) : (s.setReg r v).arrivals = s.arrivals := rfl

@[simp] theorem consoleOut_regs (bs : List Byte) (s : State) : (consoleOut bs s).regs = s.regs := rfl
@[simp] theorem consoleOut_pc (bs : List Byte) (s : State) : (consoleOut bs s).pc = s.pc := rfl
@[simp] theorem consoleOut_cond (bs : List Byte) (s : State) : (consoleOut bs s).cond = s.cond := rfl
@[simp] theorem consoleOut_mem (bs : List Byte) (s : State) : (consoleOut bs s).mem = s.mem := rfl
@[simp] theorem consoleOut_status (bs : List Byte) (s : State) : (consoleOut bs s).status = s.status := rfl
@[simp] theorem consoleOut_input (bs : List Byte) (s : State) : (consoleOut bs s).input = s.input := rfl
@[simp] theorem consoleOut_output (bs : List Byte) (s : State) : (consoleOut bs s).output = s.output ++ bs := rfl
@[simp] theorem consoleOut_config (bs : List Byte) (s : State) : (consoleOut bs s).config = s.config := rfl
@[simp] theorem consoleOut_images (bs : List Byte) (s : State) : (consoleOut bs s).images = s.images := rfl
@[simp] theorem consoleOut_arrivals (bs : List Byte) (s : State) : (consoleOut bs s).arrivals = s.arrivals := rfl

@[simp] theorem storeWord_regs (a v : Word) (s : State) : (storeWord a v s).regs = s.regs := rfl
@[simp] theorem storeWord_pc (a v : Word) (s : State) : (storeWord a v s).pc = s.pc := rfl
@[simp] theorem storeWord_cond (a v : Word) (s : State) : (storeWord a v s).cond = s.cond := rfl
@[simp] theorem storeWord_mem (a v : Word) (s : State) : (storeWord a v s).mem = s.mem.write a v := rfl
@[simp] theorem storeWord_status (a v : Word) (s : State) : (storeWord a v s).status = s.status := rfl
@[simp] theorem storeWord_input (a v : Word) (s : State) : (storeWord a v s).input = s.input := rfl
@[simp] theorem storeWord_output (a v : Word) (s : State) : (storeWord a v s).output = s.output := rfl
@[simp] theorem storeWord_config (a v : Word) (s : State) : (storeWord a v s).config = s.config := rfl
@[simp] theorem storeWord_images (a v : Word) (s : State) : (storeWord a v s).images = s.images := rfl
@[simp] theorem storeWord_arrivals (a v : Word) (s : State) : (storeWord a v s).arrivals = s.arrivals := rfl

@[simp] theorem memWrite_regs (a v : Word) (s : State) : (memWrite a v s).regs = s.regs := rfl
@[simp] theorem memWrite_pc (a v : Word) (s : State) : (memWrite a v s).pc = s.pc := rfl
@[simp] theorem memWrite_cond (a v : Word) (s : State) : (memWrite a v s).cond = s.cond := rfl
@[simp] theorem memWrite_mem (a v : Word) (s : State) : (memWrite a v s).mem = s.mem.write a v := rfl
@[simp] theorem memWrite_status (a v : Word) (s : State) : (memWrite a v s).status = s.status := rfl
@[simp] theorem memWrite_input (a v : Word) (s : State) : (memWrite a v s).input = s.input := rfl
@[simp] theorem memWrite_output (a v : Word) (s : State) : (memWrite a v s).output = s.output := rfl
@[simp] theorem memWrite_config (a v : Word) (s : State) : (memWrite a v s).config = s.config := rfl
@[simp] theorem memWrite_images (a v : Word) (s : State) : (memWrite a v s).images = s.images := rfl
@[simp] theorem memWrite_arrivals (a v : Word) (s : State) : (memWrite a v s).arrivals = s.arrivals := rfl

@[simp] theorem writeDest_regs (dr : Reg) (v : Word) (s : State) : (writeDest dr v s).regs = s.regs.set dr.toNat v := rfl
@[simp] theorem writeDest_pc (dr : Reg) (v : Word) (s : State) : (writeDest dr v s).pc = s.pc := rfl
@[simp] theorem writeDest_cond (dr : Reg) (v : Word) (s : State) : (writeDest dr v s).cond = flagsOf s.config v := rfl
@[simp] theorem writeDest_mem (dr : Reg) (v : Word) (s : State) : (writeDest dr v s).mem = s.mem := rfl
@[simp] theorem writeDest_status (dr : Reg) (v : Word) (s : State) : (writeDest dr v s).status = s.status := rfl
@[simp] theorem writeDest_input (dr : Reg) (v : Word) (s : State) : (writeDest dr v s).input = s.input := rfl
@[simp] theorem writeDest_output (dr : Reg) (v : Word) (s : State) : (writeDest dr v s).output = s.output := rfl
@[simp] theorem writeDest_config (dr : Reg) (v : Word) (s : State) : (writeDest dr v s).config = s.config := rfl
@[simp] theorem writeDest_images (dr : Reg) (v : Word) (s : State) : (writeDest dr v s).images = s.images := rfl
@[simp] theorem writeDest_arrivals (dr : Reg) (v : Word) (s : State) : (writeDest dr v s).arrivals = s.arrivals := rfl

@[simp] theorem writeLink_regs (s : State) : (writeLink s).regs = s.regs.set s.config.linkReg.toNat s.pc := rfl
@[simp] theorem writeLink_pc (s : State) : (writeLink s).pc = s.pc := rfl
@[simp] theorem writeLink_cond (s : State) : (writeLink s).cond = s.cond := rfl
@[simp] theorem writeLink_mem (s : State) : (writeLink s).mem = s.mem := rfl
@[simp] theorem writeLink_status (s : State) : (writeLink s).status = s.status := rfl
@[simp] theorem writeLink_input (s : State) : (writeLink s).input = s.input := rfl
@[simp] theorem writeLink_output (s : State) : (writeLink s).output = s.output := rfl
@[simp] theorem writeLink_config (s : State) : (writeLink s).config = s.config := rfl
@[simp] theorem writeLink_images (s : State) : (writeLink s).images = s.images := rfl
@[simp] theorem writeLink_arrivals (s : State) : (writeLink s).arrivals = s.arrivals := rfl

@[simp] theorem raiseFatal_regs (cause : Cause) (s : State) : (raiseFatal cause s).regs = s.regs := rfl
@[simp] theorem raiseFatal_pc (cause : Cause) (s : State) : (raiseFatal cause s).pc = s.pc := rfl
@[simp] theorem raiseFatal_cond (cause : Cause) (s : State) : (raiseFatal cause s).cond = s.cond := rfl
@[simp] theorem raiseFatal_mem (cause : Cause) (s : State) : (raiseFatal cause s).mem = s.mem := rfl
@[simp] theorem raiseFatal_status (cause : Cause) (s : State) : (raiseFatal cause s).status = .fatal cause := rfl
@[simp] theorem raiseFatal_input (cause : Cause) (s : State) : (raiseFatal cause s).input = s.input := rfl
@[simp] theorem raiseFatal_output (cause : Cause) (s : State) : (raiseFatal cause s).output = s.output := rfl
@[simp] theorem raiseFatal_config (cause : Cause) (s : State) : (raiseFatal cause s).config = s.config := rfl
@[simp] theorem raiseFatal_images (cause : Cause) (s : State) : (raiseFatal cause s).images = s.images := rfl
@[simp] theorem raiseFatal_arrivals (cause : Cause) (s : State) : (raiseFatal cause s).arrivals = s.arrivals := rfl

@[simp] theorem hostStart_regs (s : State) : (hostStart s).regs = s.regs := rfl
@[simp] theorem hostStart_pc (s : State) : (hostStart s).pc = Config.pcStart := rfl
@[simp] theorem hostStart_cond (s : State) : (hostStart s).cond = s.cond := rfl
@[simp] theorem hostStart_mem (s : State) : (hostStart s).mem = s.mem := rfl
@[simp] theorem hostStart_status (s : State) : (hostStart s).status = .running := rfl
@[simp] theorem hostStart_input (s : State) : (hostStart s).input = s.input := rfl
@[simp] theorem hostStart_output (s : State) : (hostStart s).output = s.output := rfl
@[simp] theorem hostStart_config (s : State) : (hostStart s).config = s.config := rfl
@[simp] theorem hostStart_images (s : State) : (hostStart s).images = s.images := rfl
@[simp] theorem hostStart_arrivals (s : State) : (hostStart s).arrivals = s.arrivals := rfl

/-- The register file: a write is read back, and every other register keeps its value (10_state.md R11). -/
theorem State.reg_setReg (s : State) (r q : Reg) (v : Word) : (s.setReg r v).reg q = if q = r then v else s.reg q := by
  simp [State.reg, State.setReg, Vector.getElem_set, BitVec.toNat_inj, eq_comm]

/-- Reading a register sees the register file only. -/
theorem State.reg_congr (s t : State) (r : Reg) (h : t.regs = s.regs) : t.reg r = s.reg r := by
  simp [State.reg, h]

@[simp] theorem setcc_reg (v : Word) (s : State) (r : Reg) : (setcc v s).reg r = s.reg r := rfl
@[simp] theorem consoleOut_reg (bs : List Byte) (s : State) (r : Reg) : (consoleOut bs s).reg r = s.reg r := rfl
@[simp] theorem storeWord_reg (a v : Word) (s : State) (r : Reg) : (storeWord a v s).reg r = s.reg r := rfl
@[simp] theorem memWrite_reg (a v : Word) (s : State) (r : Reg) : (memWrite a v s).reg r = s.reg r := rfl
@[simp] theorem raiseFatal_reg (cause : Cause) (s : State) (r : Reg) : (raiseFatal cause s).reg r = s.reg r := rfl
@[simp] theorem hostStart_reg (s : State) (r : Reg) : (hostStart s).reg r = s.reg r := rfl

/-- A destination write seen through the registers. -/
theorem writeDest_reg (dr : Reg) (v : Word) (s : State) (q : Reg) :
    (writeDest dr v s).reg q = if q = dr then v else s.reg q := State.reg_setReg s dr q v

/-- The link write seen through the registers (43_control.md R122). -/
theorem writeLink_reg (s : State) (q : Reg) : (writeLink s).reg q = if q = s.config.linkReg then s.pc else s.reg q :=
  State.reg_setReg s s.config.linkReg q s.pc

end Sys2Proof.Machine
end

