-- ==== Sys2Proof/Laws/Ops.lean ====
section
/-! SUPPORT. For each shared operation, once, everything it can do: the read path, the trap entry, the string walk, the
host's boot events, the arrivals, and the step. -/

namespace Sys2Proof.Machine

/-- The poll with nothing pending clears KBSR and does nothing else (20_memory.md R32). -/
theorem pollKeyboard_empty (s : State) (h : s.input = []) : pollKeyboard s = storeWord s.config.kbsrAddr 0 s := by
  simp [pollKeyboard, h]

/-- The poll with a byte pending (20_memory.md R32). -/
theorem pollKeyboard_ready (s : State) (c : Byte) (rest : List Byte) (h : s.input = c :: rest) :
    pollKeyboard s =
      { storeWord s.config.kbdrAddr (zext c) (storeWord s.config.kbsrAddr (readyStatus s) s) with input := rest } := by
  simp [pollKeyboard, h]

@[simp] theorem pollKeyboard_regs (s : State) : (pollKeyboard s).regs = s.regs := by
  unfold pollKeyboard; split <;> rfl
@[simp] theorem pollKeyboard_pc (s : State) : (pollKeyboard s).pc = s.pc := by
  unfold pollKeyboard; split <;> rfl
@[simp] theorem pollKeyboard_cond (s : State) : (pollKeyboard s).cond = s.cond := by
  unfold pollKeyboard; split <;> rfl
@[simp] theorem pollKeyboard_status (s : State) : (pollKeyboard s).status = s.status := by
  unfold pollKeyboard; split <;> rfl
@[simp] theorem pollKeyboard_output (s : State) : (pollKeyboard s).output = s.output := by
  unfold pollKeyboard; split <;> rfl
@[simp] theorem pollKeyboard_config (s : State) : (pollKeyboard s).config = s.config := by
  unfold pollKeyboard; split <;> rfl
@[simp] theorem pollKeyboard_images (s : State) : (pollKeyboard s).images = s.images := by
  unfold pollKeyboard; split <;> rfl
@[simp] theorem pollKeyboard_arrivals (s : State) : (pollKeyboard s).arrivals = s.arrivals := by
  unfold pollKeyboard; split <;> rfl
@[simp] theorem pollKeyboard_reg (s : State) (r : Reg) : (pollKeyboard s).reg r = s.reg r :=
  State.reg_congr _ _ r (pollKeyboard_regs s)

/-- The poll takes nothing but the head of the queue. -/
theorem pollKeyboard_input (s : State) : (pollKeyboard s).input = s.input.tail := by
  unfold pollKeyboard
  split <;> simp_all

/-- The poll writes the two keyboard words only. -/
theorem pollKeyboard_read_other (s : State) (a : Word) (h1 : a ≠ s.config.kbsrAddr) (h2 : a ≠ s.config.kbdrAddr) :
    (pollKeyboard s).mem.read a = s.mem.read a := by
  unfold pollKeyboard
  split <;> simp [Memory.read_write, h1, h2]

/-- The poll keeps the canonical form. -/
theorem pollKeyboard_wf (s : State) (h : s.mem.wf) : (pollKeyboard s).mem.wf := by
  unfold pollKeyboard
  split
  · exact Memory.wf_write s.mem _ 0 h
  · exact Memory.wf_write _ _ (zext _) (Memory.wf_write s.mem _ (readyStatus s) h)

/-- A read of any address but KBSR has no side effect (20_memory.md R32, R35). -/
theorem readEffect_of_ne (a : Word) (s : State) (h : a ≠ s.config.kbsrAddr) : readEffect a s = s := if_neg h

theorem readEffect_kbsr (s : State) : readEffect s.config.kbsrAddr s = pollKeyboard s := if_pos rfl

@[simp] theorem readEffect_regs (a : Word) (s : State) : (readEffect a s).regs = s.regs := by
  unfold readEffect; split <;> simp
@[simp] theorem readEffect_pc (a : Word) (s : State) : (readEffect a s).pc = s.pc := by
  unfold readEffect; split <;> simp
@[simp] theorem readEffect_cond (a : Word) (s : State) : (readEffect a s).cond = s.cond := by
  unfold readEffect; split <;> simp
@[simp] theorem readEffect_status (a : Word) (s : State) : (readEffect a s).status = s.status := by
  unfold readEffect; split <;> simp
@[simp] theorem readEffect_output (a : Word) (s : State) : (readEffect a s).output = s.output := by
  unfold readEffect; split <;> simp
@[simp] theorem readEffect_config (a : Word) (s : State) : (readEffect a s).config = s.config := by
  unfold readEffect; split <;> simp
@[simp] theorem readEffect_images (a : Word) (s : State) : (readEffect a s).images = s.images := by
  unfold readEffect; split <;> simp
@[simp] theorem readEffect_arrivals (a : Word) (s : State) : (readEffect a s).arrivals = s.arrivals := by
  unfold readEffect; split <;> simp
@[simp] theorem readEffect_reg (a : Word) (s : State) (r : Reg) : (readEffect a s).reg r = s.reg r :=
  State.reg_congr _ _ r (readEffect_regs a s)

/-- A read takes at most the head of the queue, and only at KBSR. -/
theorem readEffect_input (a : Word) (s : State) :
    (readEffect a s).input = if a = s.config.kbsrAddr then s.input.tail else s.input := by
  unfold readEffect
  split
  · exact pollKeyboard_input s
  · rfl

theorem readEffect_wf (a : Word) (s : State) (h : s.mem.wf) : (readEffect a s).mem.wf := by
  unfold readEffect
  split
  · exact pollKeyboard_wf s h
  · exact h

/-- A read changes a word only if it reads KBSR, and then only a keyboard word. -/
theorem readEffect_read_other (a b : Word) (s : State)
    (h : a = s.config.kbsrAddr → b ≠ s.config.kbsrAddr ∧ b ≠ s.config.kbdrAddr) :
    (readEffect a s).mem.read b = s.mem.read b := by
  unfold readEffect
  split
  · rename_i ha
    exact pollKeyboard_read_other s b (h ha).1 (h ha).2
  · rfl

theorem memRead_fst (a : Word) (s : State) : (memRead a s).1 = (readEffect a s).mem.read a := rfl
@[simp] theorem memRead_snd (a : Word) (s : State) : (memRead a s).2 = readEffect a s := rfl

/-- A plain read: the stored word and the same state. -/
theorem memRead_of_ne (a : Word) (s : State) (h : a ≠ s.config.kbsrAddr) : memRead a s = (s.mem.read a, s) := by
  simp [memRead, readEffect_of_ne a s h]

@[simp] theorem trapEntry_pc (s : State) : (trapEntry s).pc = s.pc := by
  unfold trapEntry; split <;> rfl
@[simp] theorem trapEntry_cond (s : State) : (trapEntry s).cond = s.cond := by
  unfold trapEntry; split <;> rfl
@[simp] theorem trapEntry_mem (s : State) : (trapEntry s).mem = s.mem := by
  unfold trapEntry; split <;> rfl
@[simp] theorem trapEntry_status (s : State) : (trapEntry s).status = s.status := by
  unfold trapEntry; split <;> rfl
@[simp] theorem trapEntry_input (s : State) : (trapEntry s).input = s.input := by
  unfold trapEntry; split <;> rfl
@[simp] theorem trapEntry_output (s : State) : (trapEntry s).output = s.output := by
  unfold trapEntry; split <;> rfl
@[simp] theorem trapEntry_config (s : State) : (trapEntry s).config = s.config := by
  unfold trapEntry; split <;> rfl
@[simp] theorem trapEntry_images (s : State) : (trapEntry s).images = s.images := by
  unfold trapEntry; split <;> rfl
@[simp] theorem trapEntry_arrivals (s : State) : (trapEntry s).arrivals = s.arrivals := by
  unfold trapEntry; split <;> rfl

/-- The trap entry writes the link register, and that only if TRAP_SAVES_LINK (44_trap_system.md R138). -/
theorem trapEntry_reg (s : State) (r : Reg) :
    (trapEntry s).reg r = if r = s.config.linkReg ∧ s.config.trapSavesLink = true then s.pc else s.reg r := by
  unfold trapEntry
  split
  · rename_i h
    simp [writeLink_reg, h]
  · rename_i h
    simp [h]

/-- R0, which the routines use, is not the link register of a machine (log 26). -/
theorem trapEntry_reg_zero (s : State) (h : s.config.linkReg ≠ 0) : (trapEntry s).reg 0 = s.reg 0 := by
  rw [trapEntry_reg, if_neg (fun e => h e.1.symm)]

@[simp] theorem emitString_regs (emit : Word → List Byte) (s : State) : (emitString emit s).regs = s.regs := by
  unfold emitString; dsimp only; split <;> rfl
@[simp] theorem emitString_pc (emit : Word → List Byte) (s : State) : (emitString emit s).pc = s.pc := by
  unfold emitString; dsimp only; split <;> rfl
@[simp] theorem emitString_cond (emit : Word → List Byte) (s : State) : (emitString emit s).cond = s.cond := by
  unfold emitString; dsimp only; split <;> rfl
@[simp] theorem emitString_mem (emit : Word → List Byte) (s : State) : (emitString emit s).mem = s.mem := by
  unfold emitString; dsimp only; split <;> rfl
@[simp] theorem emitString_input (emit : Word → List Byte) (s : State) : (emitString emit s).input = s.input := by
  unfold emitString; dsimp only; split <;> rfl
@[simp] theorem emitString_config (emit : Word → List Byte) (s : State) : (emitString emit s).config = s.config := by
  unfold emitString; dsimp only; split <;> rfl
@[simp] theorem emitString_images (emit : Word → List Byte) (s : State) : (emitString emit s).images = s.images := by
  unfold emitString; dsimp only; split <;> rfl
@[simp] theorem emitString_arrivals (emit : Word → List Byte) (s : State) : (emitString emit s).arrivals = s.arrivals := by
  unfold emitString; dsimp only; split <;> rfl
@[simp] theorem emitString_reg (emit : Word → List Byte) (s : State) (r : Reg) : (emitString emit s).reg r = s.reg r :=
  State.reg_congr _ _ r (emitString_regs emit s)

/-- A string routine emits what its walk gives and is fatal exactly if the walk ran past the end (R133, R135, R141). -/
theorem emitString_output (emit : Word → List Byte) (s : State) :
    (emitString emit s).output = s.output ++ (walkString emit s.mem (65536 - (s.reg 0).toNat)).bytes := by
  unfold emitString; dsimp only; split <;> rfl

theorem emitString_status (emit : Word → List Byte) (s : State) :
    (emitString emit s).status =
      if (walkString emit s.mem (65536 - (s.reg 0).toNat)).ended then s.status else .fatal .stringOverrun := by
  unfold emitString; dsimp only; split <;> simp_all

theorem walkString_zero (emit : Word → List Byte) (m : Memory) : walkString emit m 0 = ⟨[], false⟩ := rfl

/-- The walk stops at a zero word. -/
theorem walkString_stop (emit : Word → List Byte) (m : Memory) (left : Nat) (h : m.lookup (65536 - (left + 1)) = 0) :
    walkString emit m (left + 1) = ⟨[], true⟩ := if_pos h

/-- The walk goes on past a nonzero word. -/
theorem walkString_go (emit : Word → List Byte) (m : Memory) (left : Nat) (h : m.lookup (65536 - (left + 1)) ≠ 0) :
    walkString emit m (left + 1) =
      ⟨emit (m.lookup (65536 - (left + 1))) ++ (walkString emit m left).bytes, (walkString emit m left).ended⟩ := if_neg h

/-- Placing words keeps the canonical form. -/
theorem placeWords_wf : ∀ (bytes : List Byte) (a : Nat) (m : Memory), m.wf → (placeWords bytes a m).wf
  | hi :: lo :: rest, a, m, h => by
    simp only [placeWords]
    split
    · exact placeWords_wf rest (a + 1) _ (Memory.wf_write _ _ _ h)
    · exact h
  | [], _, _, h => h
  | [_], _, _, h => h

/-- Loading an image keeps the canonical form. -/
theorem loadImage_wf (bytes : List Byte) (m : Memory) (h : m.wf) : (loadImage bytes m).wf := by
  unfold loadImage
  split
  · exact placeWords_wf _ _ _ h
  · exact h

/-- A boot event: one of three, and none touches registers, flags, console or parameters (R171). -/
theorem hostBoot_cases (s : State) :
    (s.images = [] ∧ hostBoot s = hostStart s) ∨
    (∃ rest, s.images = none :: rest ∧ hostBoot s = raiseFatal .loadFailure { s with images := rest }) ∨
    (∃ bytes rest, s.images = some bytes :: rest ∧
      hostBoot s = { s with mem := loadImage bytes s.mem, images := rest }) := by
  unfold hostBoot
  split
  · exact .inl ⟨‹_›, rfl⟩
  · exact .inr (.inl ⟨_, ‹_›, rfl⟩)
  · exact .inr (.inr ⟨_, _, ‹_›, rfl⟩)

@[simp] theorem hostBoot_regs (s : State) : (hostBoot s).regs = s.regs := by
  unfold hostBoot; split <;> rfl
@[simp] theorem hostBoot_cond (s : State) : (hostBoot s).cond = s.cond := by
  unfold hostBoot; split <;> rfl
@[simp] theorem hostBoot_input (s : State) : (hostBoot s).input = s.input := by
  unfold hostBoot; split <;> rfl
@[simp] theorem hostBoot_output (s : State) : (hostBoot s).output = s.output := by
  unfold hostBoot; split <;> rfl
@[simp] theorem hostBoot_config (s : State) : (hostBoot s).config = s.config := by
  unfold hostBoot; split <;> rfl
@[simp] theorem hostBoot_arrivals (s : State) : (hostBoot s).arrivals = s.arrivals := by
  unfold hostBoot; split <;> rfl

theorem hostBoot_wf (s : State) (h : s.mem.wf) : (hostBoot s).mem.wf := by
  rcases hostBoot_cases s with ⟨_, e⟩ | ⟨_, _, e⟩ | ⟨bytes, _, _, e⟩
  · rw [e]; exact h
  · rw [e]; exact h
  · rw [e]; exact loadImage_wf bytes _ h

@[simp] theorem deliver_regs (s : State) : (deliver s).regs = s.regs := by
  unfold deliver; split <;> rfl
@[simp] theorem deliver_pc (s : State) : (deliver s).pc = s.pc := by
  unfold deliver; split <;> rfl
@[simp] theorem deliver_cond (s : State) : (deliver s).cond = s.cond := by
  unfold deliver; split <;> rfl
@[simp] theorem deliver_mem (s : State) : (deliver s).mem = s.mem := by
  unfold deliver; split <;> rfl
@[simp] theorem deliver_status (s : State) : (deliver s).status = s.status := by
  unfold deliver; split <;> rfl
@[simp] theorem deliver_output (s : State) : (deliver s).output = s.output := by
  unfold deliver; split <;> rfl
@[simp] theorem deliver_config (s : State) : (deliver s).config = s.config := by
  unfold deliver; split <;> rfl
@[simp] theorem deliver_images (s : State) : (deliver s).images = s.images := by
  unfold deliver; split <;> rfl
@[simp] theorem deliver_reg (s : State) (r : Reg) : (deliver s).reg r = s.reg r := State.reg_congr _ _ r (deliver_regs s)

/-- The arrivals of one step (92 D25). -/
theorem deliver_input (s : State) : (deliver s).input = s.input ++ s.arrivals.headD [] := by
  unfold deliver; split <;> simp_all

theorem deliver_arrivals (s : State) : (deliver s).arrivals = s.arrivals.tail := by
  unfold deliver; split <;> simp_all

/-- Where no input is scripted, nothing arrives. -/
theorem deliver_of_nil (s : State) (h : s.arrivals = []) : deliver s = s := by simp [deliver, h]

/-- The word fetched and the state after the fetch (40_step_and_decode.md R71). -/
theorem fetch_eq (s : State) :
    fetch s = ((readEffect s.pc s).mem.read s.pc, { readEffect s.pc s with pc := s.pc + 1 }) := by
  simp [fetch, memRead]

/-- A hold replaces one fault by the state before; every other result passes (R77). -/
theorem orHold_eq_next (before t : State) (r : Result) (h : orHold before r = .next t) :
    r = .next t ∨ (r = .fault .inputHold ∧ t = before) := by
  unfold orHold at h
  split at h
  · simp at h; exact .inr ⟨rfl, h.symm⟩
  · exact .inl h

/-- All a step can do when it answers a next state: run the decoded instruction, hold, or make a boot event. -/
theorem step_cases (s t : State) (h : step s = .next t) :
    (s.status = .running ∧ exec (decode s.config (fetch (deliver s)).1) (fetch (deliver s)).2 = .next t) ∨
    (s.status = .running ∧ exec (decode s.config (fetch (deliver s)).1) (fetch (deliver s)).2 = .fault .inputHold ∧
      t = deliver s) ∨
    (s.status = .idle ∧ t = hostBoot (deliver s)) := by
  unfold step cycle at h
  rw [deliver_status] at h
  split at h
  · rename_i hs
    rw [instructionStep, deliver_config] at h
    rcases orHold_eq_next _ _ _ h with h | ⟨h, ht⟩
    · exact .inl ⟨hs, h⟩
    · exact .inr (.inl ⟨hs, h, ht⟩)
  · rename_i hs
    simp at h
    exact .inr (.inr ⟨hs, h.symm⟩)
  · simp at h
  · simp at h

/-- A step of a running machine, in one equation. -/
theorem step_running (s : State) (h : s.status = .running) :
    step s = orHold (deliver s) (exec (decode s.config (fetch (deliver s)).1) (fetch (deliver s)).2) := by
  simp [step, cycle, h, instructionStep]

/-- A step of an idle machine is a boot event. -/
theorem step_idle (s : State) (h : s.status = .idle) : step s = .next (hostBoot (deliver s)) := by
  simp [step, cycle, h]

end Sys2Proof.Machine
end

