-- ==== Sys2Proof/Laws/Exec.lean ====
section
/-! SUPPORT. What exec can answer: the inversion every whole-machine claim starts from. -/

namespace Sys2Proof.Machine

@[simp] theorem jumpTo_reg (target : Word) (s : State) (r : Reg) : (jumpTo target s).reg r = s.reg r := rfl

/-- All `exec` can do when it answers a next state, instruction by instruction: the state is the shared operation's of that
instruction, and GETC and IN had a byte pending. -/
theorem exec_next (i : Instr) (s t : State) (h : exec i s = .next t) :
    match i with
    | .br nzp off9 => (if flagsMeet nzp s then jumpTo (pcRelative off9 s) s else s) = t
    | .add dr sr1 sr2 => writeDest dr (s.reg sr1 + s.reg sr2) s = t
    | .addImm dr sr1 imm5 => writeDest dr (s.reg sr1 + sext imm5) s = t
    | .ld dr off9 => loadInto dr (pcRelative off9 s) s = t
    | .st sr off9 => memWrite (pcRelative off9 s) (s.reg sr) s = t
    | .jsr off11 => jumpTo (pcRelative off11 s) (writeLink s) = t
    | .jsrr baseR => jumpTo ((writeLink s).reg baseR) (writeLink s) = t
    | .and dr sr1 sr2 => writeDest dr (s.reg sr1 &&& s.reg sr2) s = t
    | .andImm dr sr1 imm5 => writeDest dr (s.reg sr1 &&& sext imm5) s = t
    | .ldr dr baseR off6 => loadInto dr (baseOffset baseR off6 s) s = t
    | .str sr baseR off6 => memWrite (baseOffset baseR off6 s) (s.reg sr) s = t
    | .rti => raiseFatal .invalidOpcode s = t
    | .not dr sr1 => writeDest dr (~~~ s.reg sr1) s = t
    | .ldi dr off9 => loadInto dr (memRead (pcRelative off9 s) s).1 (memRead (pcRelative off9 s) s).2 = t
    | .sti sr off9 =>
      memWrite (memRead (pcRelative off9 s) s).1 ((memRead (pcRelative off9 s) s).2.reg sr) (memRead (pcRelative off9 s) s).2 = t
    | .jmp baseR => jumpTo (s.reg baseR) s = t
    | .res => raiseFatal .invalidOpcode s = t
    | .lea dr off9 => writeDest dr (pcRelative off9 s) s = t
    | .trapGetc => ∃ c rest, s.input = c :: rest ∧ ({ trapEntry s with input := rest }.setReg 0 (zext c)) = t
    | .trapOut => consoleOut [lowByte ((trapEntry s).reg 0)] (trapEntry s) = t
    | .trapPuts => emitString oneCharacter (trapEntry s) = t
    | .trapIn =>
      ∃ c rest, s.input = c :: rest ∧ ((consoleOut (s.config.inPrompt ++ [c]) { trapEntry s with input := rest }).setReg 0 (zext c)) = t
    | .trapPutsp => emitString packedCharacters (trapEntry s) = t
    | .trapHalt => { trapEntry s with status := .halted } = t
    | .trapInvalid _ => raiseFatal .invalidTrapVector (trapEntry s) = t := by
  cases i
  case trapGetc =>
    simp only [exec, execTrapGetc, trapEntry_input] at h
    split at h
    · simp at h
    · exact ⟨_, _, ‹_›, by simpa using h⟩
  case trapIn =>
    simp only [exec, execTrapIn, trapEntry_input] at h
    split at h
    · simp at h
    · exact ⟨_, _, ‹_›, by simpa using h⟩
  all_goals exact Host.Outcome.next.inj h

end Sys2Proof.Machine
end

