-- ==== Sys2Proof/Laws/PerInstr.lean ====
section
/-! SUPPORT. Per-instruction statements about the instruction as syntax, one lemma per constructor. -/

/-- The top four bits of an instruction's word are its opcode, whatever the parameters of the machine (30_encoding.md R50). -/
def Sys2Proof.Laws.OpcodeField.Statement (i : Sys2Proof.Instr) : Prop :=
  ∀ c : Sys2Proof.Config, (Sys2Proof.encode c i).extractLsb' 12 4 = i.opcode c.opcodes

/-- The opcode is put above the operand bits, whatever they are. -/
theorem Sys2Proof.Laws.OpcodeField.of_encode (i : Sys2Proof.Instr) : Sys2Proof.Laws.OpcodeField.Statement i :=
  fun c => Sys2Proof.encode_opcode c i

theorem Sys2Proof.Laws.OpcodeField.br (nzp : BitVec 3) (off9 : BitVec 9) : Sys2Proof.Laws.OpcodeField.Statement (.br nzp off9) := of_encode _
theorem Sys2Proof.Laws.OpcodeField.add (dr sr1 sr2 : Reg) : Sys2Proof.Laws.OpcodeField.Statement (.add dr sr1 sr2) := of_encode _
theorem Sys2Proof.Laws.OpcodeField.addImm (dr sr1 : Reg) (imm5 : BitVec 5) : Sys2Proof.Laws.OpcodeField.Statement (.addImm dr sr1 imm5) := of_encode _
theorem Sys2Proof.Laws.OpcodeField.ld (dr : Reg) (off9 : BitVec 9) : Sys2Proof.Laws.OpcodeField.Statement (.ld dr off9) := of_encode _
theorem Sys2Proof.Laws.OpcodeField.st (sr : Reg) (off9 : BitVec 9) : Sys2Proof.Laws.OpcodeField.Statement (.st sr off9) := of_encode _
theorem Sys2Proof.Laws.OpcodeField.jsr (off11 : BitVec 11) : Sys2Proof.Laws.OpcodeField.Statement (.jsr off11) := of_encode _
theorem Sys2Proof.Laws.OpcodeField.jsrr (baseR : Reg) : Sys2Proof.Laws.OpcodeField.Statement (.jsrr baseR) := of_encode _
theorem Sys2Proof.Laws.OpcodeField.and (dr sr1 sr2 : Reg) : Sys2Proof.Laws.OpcodeField.Statement (.and dr sr1 sr2) := of_encode _
theorem Sys2Proof.Laws.OpcodeField.andImm (dr sr1 : Reg) (imm5 : BitVec 5) : Sys2Proof.Laws.OpcodeField.Statement (.andImm dr sr1 imm5) := of_encode _
theorem Sys2Proof.Laws.OpcodeField.ldr (dr baseR : Reg) (off6 : BitVec 6) : Sys2Proof.Laws.OpcodeField.Statement (.ldr dr baseR off6) := of_encode _
theorem Sys2Proof.Laws.OpcodeField.str (sr baseR : Reg) (off6 : BitVec 6) : Sys2Proof.Laws.OpcodeField.Statement (.str sr baseR off6) := of_encode _
theorem Sys2Proof.Laws.OpcodeField.rti : Sys2Proof.Laws.OpcodeField.Statement (.rti) := of_encode _
theorem Sys2Proof.Laws.OpcodeField.not (dr sr1 : Reg) : Sys2Proof.Laws.OpcodeField.Statement (.not dr sr1) := of_encode _
theorem Sys2Proof.Laws.OpcodeField.ldi (dr : Reg) (off9 : BitVec 9) : Sys2Proof.Laws.OpcodeField.Statement (.ldi dr off9) := of_encode _
theorem Sys2Proof.Laws.OpcodeField.sti (sr : Reg) (off9 : BitVec 9) : Sys2Proof.Laws.OpcodeField.Statement (.sti sr off9) := of_encode _
theorem Sys2Proof.Laws.OpcodeField.jmp (baseR : Reg) : Sys2Proof.Laws.OpcodeField.Statement (.jmp baseR) := of_encode _
theorem Sys2Proof.Laws.OpcodeField.res : Sys2Proof.Laws.OpcodeField.Statement (.res) := of_encode _
theorem Sys2Proof.Laws.OpcodeField.lea (dr : Reg) (off9 : BitVec 9) : Sys2Proof.Laws.OpcodeField.Statement (.lea dr off9) := of_encode _
theorem Sys2Proof.Laws.OpcodeField.trapGetc : Sys2Proof.Laws.OpcodeField.Statement (.trapGetc) := of_encode _
theorem Sys2Proof.Laws.OpcodeField.trapOut : Sys2Proof.Laws.OpcodeField.Statement (.trapOut) := of_encode _
theorem Sys2Proof.Laws.OpcodeField.trapPuts : Sys2Proof.Laws.OpcodeField.Statement (.trapPuts) := of_encode _
theorem Sys2Proof.Laws.OpcodeField.trapIn : Sys2Proof.Laws.OpcodeField.Statement (.trapIn) := of_encode _
theorem Sys2Proof.Laws.OpcodeField.trapPutsp : Sys2Proof.Laws.OpcodeField.Statement (.trapPutsp) := of_encode _
theorem Sys2Proof.Laws.OpcodeField.trapHalt : Sys2Proof.Laws.OpcodeField.Statement (.trapHalt) := of_encode _
theorem Sys2Proof.Laws.OpcodeField.trapInvalid (vect8 : Byte) : Sys2Proof.Laws.OpcodeField.Statement (.trapInvalid vect8) := of_encode _
end

