-- ==== Sys2Proof/Tests/Slice0.lean ====
section
/-! SUPPORT. The model's own tests: the WellFormed smoke, decoding words written out from the spec's encodings, one step of
each instruction against a vector of 95_test_vectors.md (its id in the comment), and a witness for every hypothesis of the
obligations. -/

namespace Sys2Proof.Tests

open Sys2Proof.Machine Sys2Proof.Safety

/-- A running machine, zero but for the pc and the word there: the default start state of 95_test_vectors.md. -/
def running (pc word : Word) : State := storeWord pc word { State.reset with pc := pc, status := .running }

/-- The state a result goes on with. -/
def goesOn : Result → Option State
  | .next t => some t
  | .fault _ => none
  | .refused _ => none

/-- The state after one step, if there is one. -/
def after (s : State) : Option State := goesOn (step s)

/-! ### WellFormed: the one ill-formed kind of term is refused -/

theorem test_wf_refuses_getc_vector : (Instr.trapInvalid 0x20).wf Config.standard = false := by decide
theorem test_wf_refuses_out_vector : (Instr.trapInvalid 0x21).wf Config.standard = false := by decide
theorem test_wf_refuses_puts_vector : (Instr.trapInvalid 0x22).wf Config.standard = false := by decide
theorem test_wf_refuses_in_vector : (Instr.trapInvalid 0x23).wf Config.standard = false := by decide
theorem test_wf_refuses_putsp_vector : (Instr.trapInvalid 0x24).wf Config.standard = false := by decide
theorem test_wf_refuses_halt_vector : (Instr.trapInvalid 0x25).wf Config.standard = false := by decide
theorem test_wf_allows_undefined_vector : (Instr.trapInvalid 0x26).wf Config.standard = true := by decide

/-! ### Decoding: every row, its word written out field by field from 30_encoding.md R52 -/

theorem test_decode_br : decode Config.standard 0b0000_101_000000011 = .br 0b101 3 := by decide
theorem test_decode_add : decode Config.standard 0b0001_010_011_0_11_100 = .add 2 3 4 := by decide
theorem test_decode_addImm : decode Config.standard 0b0001_000_001_1_11111 = .addImm 0 1 0b11111 := by decide
theorem test_decode_ld : decode Config.standard 0b0010_010_000000101 = .ld 2 5 := by decide
theorem test_decode_st : decode Config.standard 0b0011_010_111111101 = .st 2 0x1FD := by decide
theorem test_decode_jsr : decode Config.standard 0b0100_1_00000010000 = .jsr 16 := by decide
theorem test_decode_jsrr : decode Config.standard 0b0100_0_11_011_111111 = .jsrr 3 := by decide
theorem test_decode_and : decode Config.standard 0b0101_001_010_0_11_011 = .and 1 2 3 := by decide
theorem test_decode_andImm : decode Config.standard 0b0101_001_010_1_10000 = .andImm 1 2 0b10000 := by decide
theorem test_decode_ldr : decode Config.standard 0b0110_100_101_111111 = .ldr 4 5 0b111111 := by decide
theorem test_decode_str : decode Config.standard 0b0111_100_101_011111 = .str 4 5 0b011111 := by decide
theorem test_decode_rti : decode Config.standard 0b1000_101010111100 = .rti := by decide
theorem test_decode_not : decode Config.standard 0b1001_001_010_111111 = .not 1 2 := by decide
theorem test_decode_ldi : decode Config.standard 0b1010_011_111111110 = .ldi 3 0x1FE := by decide
theorem test_decode_sti : decode Config.standard 0b1011_001_000000100 = .sti 1 4 := by decide
theorem test_decode_jmp : decode Config.standard 0b1100_111_010_111111 = .jmp 2 := by decide
theorem test_decode_res : decode Config.standard 0b1101_111111111111 = .res := by decide
theorem test_decode_lea : decode Config.standard 0b1110_000_111111111 = .lea 0 0x1FF := by decide
theorem test_decode_trapGetc : decode Config.standard 0b1111_1111_00100000 = .trapGetc := by decide
theorem test_decode_trapOut : decode Config.standard 0b1111_0000_00100001 = .trapOut := by decide
theorem test_decode_trapPuts : decode Config.standard 0b1111_0000_00100010 = .trapPuts := by decide
theorem test_decode_trapIn : decode Config.standard 0b1111_0000_00100011 = .trapIn := by decide
theorem test_decode_trapPutsp : decode Config.standard 0b1111_0000_00100100 = .trapPutsp := by decide
theorem test_decode_trapHalt : decode Config.standard 0b1111_0001_00100101 = .trapHalt := by decide
theorem test_decode_trapInvalid : decode Config.standard 0b1111_0000_00011111 = .trapInvalid 0x1F := by decide

/-- The canonical words of 30_encoding.md R66 (RET, NOP, HALT) from the encoder. -/
theorem test_encode_aliases :
    (encode Config.standard (.jmp 7), encode Config.standard (.br 0 0), encode Config.standard .trapHalt) = (0xC1C0, 0x0000, 0xF025) := by decide

/-- The table's row word and the placed instruction reach the decoder and the step. -/
theorem test_table_word : decodeTableWord 16 0xF022 = some .trapPuts := by decide
theorem test_withFetchWord_runs_halt :
    (after (State.reset.withFetchWord 16 0xF025)).map (fun t => (t.status, t.pc)) = some (.halted, 0x3001) := by decide

/-! ### One step of each instruction, against the vectors of 95_test_vectors.md -/

/-- ADD-4: 0x8000 + 0x8000 wraps to 0. -/
theorem test_add_wraps :
    (after ((running 0x3000 0x1241).setReg 1 0x8000)).map (fun t => (t.reg 1, t.cond, t.pc)) =
      some (0, 0b010, 0x3001) := by decide
/-- ADD-7: the most negative immediate. -/
theorem test_addImm_negative :
    (after ((running 0x3000 0x1270).setReg 1 0x0008)).map (fun t => (t.reg 1, t.cond)) = some (0xFFF8, 0b100) := by decide
/-- AND-2. -/
theorem test_and :
    (after (((running 0x3000 0x5283).setReg 2 0xF0F0).setReg 3 0x8FF0)).map (fun t => (t.reg 1, t.cond)) =
      some (0x80F0, 0b100) := by decide
/-- AND-5: immediate 0xFFF0. -/
theorem test_andImm_sign_extends :
    (after ((running 0x3000 0x52B0).setReg 2 0x12FF)).map (fun t => (t.reg 1, t.cond)) = some (0x12F0, 0b001) := by decide
/-- NOT-5. -/
theorem test_not :
    (after ((running 0x3000 0x96FF).setReg 3 0x8000)).map (fun t => (t.reg 3, t.cond)) = some (0x7FFF, 0b001) := by decide
/-- LD-3: the lowest reach. -/
theorem test_ld_lowest_reach :
    (after (storeWord 0x2F01 7 (running 0x3000 0x2500))).map (fun t => (t.reg 2, t.cond)) = some (7, 0b001) := by decide
/-- LD-6: the address is KBSR; one byte is taken. -/
theorem test_ld_polls :
    (after { running 0xFDFF 0x2000 with input := [0x41, 0x42] }).map
        (fun t => (t.reg 0, t.mem.read 0xFE00, t.mem.read 0xFE02, t.input)) =
      some (0x8000, 0x8000, 0x0041, [0x42]) := by decide
/-- LDI-1: the worked example of the source. -/
theorem test_ldi :
    (after (storeWord 0x300F 0x4000 (storeWord 0x4000 0x002A (running 0x3010 0xA7FE)))).map (fun t => (t.reg 3, t.cond)) =
      some (0x002A, 0b001) := by decide
/-- LDI-8: the pointer word is KBSR itself. -/
theorem test_ldi_pointer_polls :
    (after { storeWord 0x8000 0x1234 (running 0xFDFF 0xA000) with input := [0x41] }).map
        (fun t => (t.reg 0, t.mem.read 0xFE02, t.input)) = some (0x1234, 0x0041, []) := by decide
/-- LDR-2: DR is the base. -/
theorem test_ldr_dest_is_base :
    (after (storeWord 0x4000 0xBEEF ((running 0x3000 0x6240).setReg 1 0x4000))).map (fun t => (t.reg 1, t.cond)) =
      some (0xBEEF, 0b100) := by decide
/-- LEA-4: the sum wraps to 0, from the top of memory. -/
theorem test_lea_wraps :
    (after ((running 0xFFFF 0xE000).setReg 0 0x1111)).map (fun t => (t.reg 0, t.cond, t.pc)) =
      some (0, 0b010, 0) := by decide
/-- ST-3: the instruction overwrites itself. -/
theorem test_st_overwrites_itself :
    (after (running 0x3000 0x35FF)).map (fun t => (t.mem, t.pc)) = some ([], 0x3001) := by decide
/-- STI-3: the pointer read at KBSR polls. -/
theorem test_sti_pointer_polls :
    (after { (running 0xFDFF 0xB200).setReg 1 0x0041 with input := [0x61] }).map
        (fun t => (t.mem.read 0x8000, t.mem.read 0xFE00, t.mem.read 0xFE02)) = some (0x0041, 0x8000, 0x0061) := by decide
/-- STR-2: SR is the base and the address wraps. -/
theorem test_str_wraps :
    (after ((running 0x3000 0x7B41).setReg 5 0xFFFF)).map (fun t => (t.mem.read 0, t.pc)) =
      some (0xFFFF, 0x3001) := by decide
/-- BR-9: taken from the wrapped pc. -/
theorem test_br_taken :
    (after { running 0xFFFF 0x08FF with cond := 0b100 }).map (fun t => t.pc) = some 0x00FF := by decide
/-- BR-4: no flag at start, so not taken. -/
theorem test_br_not_taken_without_flag : (after (running 0x3000 0x0E05)).map (fun t => t.pc) = some 0x3001 := by decide
/-- JMP-3: RET. -/
theorem test_jmp_ret : (after ((running 0x3000 0xC1C0).setReg 7 0x3456)).map (fun t => t.pc) = some 0x3456 := by decide
/-- JSR-2: the lowest reach. -/
theorem test_jsr_lowest_reach :
    (after (running 0x3000 0x4C00)).map (fun t => (t.reg 7, t.pc)) = some (0x3001, 0x2C01) := by decide
/-- JSRR-2: the link is written first, so JSRR R7 falls through. -/
theorem test_jsrr_r7_falls_through :
    (after ((running 0x3000 0x41C0).setReg 7 0x5000)).map (fun t => (t.reg 7, t.pc)) = some (0x3001, 0x3001) := by decide
/-- TRAP-1: GETC. -/
theorem test_getc :
    (after { running 0x3000 0xF020 with input := [0x61, 0x62], cond := 0b100 }).map (fun t => (t.reg 0, t.cond, t.input)) =
      some (0x0061, 0b100, [0x62]) := by decide
/-- FETCH-4: the fetch takes the only byte, so GETC is held and nothing changes. -/
theorem test_getc_held :
    after { running 0xFE00 0xF020 with input := [0x41] } = some { running 0xFE00 0xF020 with input := [0x41] } := by decide
/-- TRAP-5: OUT emits the low byte. -/
theorem test_out :
    (after ((running 0x3000 0xF021).setReg 0 0x1241)).map (fun t => t.output) = some [0x41] := by decide
/-- TRAP-9: a nonzero word with a zero low byte does not end the string. -/
theorem test_puts :
    (after (storeWord 0x4000 0x0100 (storeWord 0x4001 0x1241 ((running 0x3000 0xF022).setReg 0 0x4000)))).map
        (fun t => (t.output, t.status)) = some ([0x00, 0x41], .running) := by decide
/-- TRAP-10: the string runs off the end. -/
theorem test_puts_overrun :
    (after (storeWord 0xFFFE 0x0041 (storeWord 0xFFFF 0x0042 ((running 0x3000 0xF022).setReg 0 0xFFFE)))).map
        (fun t => (t.output, t.status)) = some ([0x41, 0x42], .fatal .stringOverrun) := by decide
/-- TRAP-14: the default prompt, then the echo. -/
theorem test_in :
    (after { running 0x3000 0xF023 with input := [0x7A] }).map (fun t => (t.reg 0, t.output)) =
      some (0x007A, [0x45, 0x6E, 0x74, 0x65, 0x72, 0x20, 0x61, 0x20, 0x63, 0x68, 0x61, 0x72, 0x61, 0x63, 0x74, 0x65,
        0x72, 0x3A, 0x20, 0x7A]) := by decide
/-- TRAP-16: "Hey", packed. -/
theorem test_putsp :
    (after (storeWord 0x4000 0x6548 (storeWord 0x4001 0x0079 ((running 0x3000 0xF024).setReg 0 0x4000)))).map
        (fun t => t.output) = some [0x48, 0x65, 0x79] := by decide
/-- TRAP-17: a zero low byte is emitted. -/
theorem test_putsp_zero_low_byte :
    (after (storeWord 0x4000 0x4100 ((running 0x3000 0xF024).setReg 0 0x4000))).map (fun t => t.output) =
      some [0x00, 0x41] := by decide
/-- TRAP-21: HALT, with TRAP_SAVES_LINK. -/
theorem test_halt_saves_link :
    (after { (running 0x3000 0xF025).setReg 7 0x5678 with config := { Config.standard with trapSavesLink := true } }).map
        (fun t => (t.reg 7, t.status)) = some (0x3001, .halted) := by decide
/-- TRAP-23: an undefined vector. -/
theorem test_trapInvalid :
    (after (running 0x3000 0xF026)).map (fun t => (t.status, t.pc)) = some (.fatal .invalidTrapVector, 0x3001) := by decide
/-- TRAP-28: RTI. -/
theorem test_rti : (after (running 0x3000 0x8ABC)).map (fun t => t.status) = some (.fatal .invalidOpcode) := by decide
/-- TRAP-30: RESERVED. -/
theorem test_res : (after (running 0x3000 0xDFFF)).map (fun t => t.status) = some (.fatal .invalidOpcode) := by decide

/-! ### The loader and the boot (LOAD-2, LOAD-3) -/

theorem test_load_drops_past_end :
    loadImage [0xFF, 0xFE, 0x00, 0x0A, 0x00, 0x0B, 0x00, 0x0C] [] = [(0xFFFE, 0x000A), (0xFFFF, 0x000B)] := by decide
theorem test_load_drops_odd_byte : loadImage [0x30, 0x00, 0x12, 0x34, 0x56] [] = [(0x3000, 0x1234)] := by decide
theorem test_reset_starts : (after State.reset).map (fun t => (t.status, t.pc)) = some (.running, 0x3000) := by decide

/-! ### Witnesses: for every obligation with hypotheses, values that meet them together, clause by clause -/

theorem witness_DecodeUndoesEncode : Config.standard.wf ∧ (Instr.trapInvalid 0xFF).wf Config.standard = true := by decide
theorem witness_ControlAndTrapRowsDecode_low : (0x1F : Byte).toNat < 0x20 := by decide
theorem witness_ControlAndTrapRowsDecode_high : 0x25 < (0x26 : Byte).toNat := by decide
theorem witness_SignExtensionCopiesTopBit_zero : 1 ≤ 15 ∧ 15 ≤ 15 ∧ (0x3FFF : BitVec 15).getLsbD 14 = false := by decide
theorem witness_SignExtensionCopiesTopBit_one : 1 ≤ 1 ∧ 1 ≤ 15 ∧ (1 : BitVec 1).getLsbD 0 = true := by decide
theorem witness_SetccSetsExactlyTheSignClass :
    (0x8000 : Word) ≠ 0 ∧ (0x8000 : Word).getLsbD 15 = true ∧ (0x7FFF : Word) ≠ 0 ∧ (0x7FFF : Word).getLsbD 15 = false := by
  decide
theorem witness_CanonicalMemoriesThatReadAlikeAreEqual :
    Memory.wf [(0, 1), (65535, 2)] ∧ ∀ a : Word, Memory.read [(0, 1), (65535, 2)] a = Memory.read [(0, 1), (65535, 2)] a :=
  ⟨by decide, fun _ => rfl⟩
theorem witness_ReadPath_ready :
    ({ State.reset with input := [0x41] } : State).config.wf ∧ ({ State.reset with input := [0x41] } : State).input = 0x41 :: [] :=
  ⟨by decide, rfl⟩
theorem witness_ReadPath_empty : State.reset.input = [] := rfl
theorem witness_ReadPath_other : (0xFE02 : Word) ≠ State.reset.config.kbsrAddr := by decide
theorem witness_LdLoadsPcRelativeWord : (running 0xFE00 0).pc + sext (0x1FF : BitVec 9) ≠ State.reset.config.kbsrAddr := by decide
theorem witness_LdiLoadsThroughPointer :
    State.reset.pc + sext (0 : BitVec 9) ≠ State.reset.config.kbsrAddr ∧ State.reset.mem.read (State.reset.pc + sext (0 : BitVec 9)) ≠ State.reset.config.kbsrAddr := by
  decide
theorem witness_LdrLoadsBaseOffsetWord : State.reset.reg 0 + sext (0b111111 : BitVec 6) ≠ State.reset.config.kbsrAddr := by decide
theorem witness_StiStoresThroughPointer : State.reset.pc + sext (0 : BitVec 9) ≠ State.reset.config.kbsrAddr := by decide
theorem witness_NextFetchSeesStoredWord : State.reset.pc + sext (0x100 : BitVec 9) ≠ State.reset.config.kbsrAddr := by decide
theorem witness_GetcReadsOneByte : ({ State.reset with input := [0xFF, 0] } : State).input = 0xFF :: [0] := rfl
theorem witness_InPromptsReadsAndEchoes : ({ State.reset with input := [0xFF, 0] } : State).input = 0xFF :: [0] := rfl

/-- R0 = 0xFFFD, a string of two words that ends in the last word of memory. -/
def twoWords : State := storeWord 0xFFFD 0x4148 (storeWord 0xFFFE 0x0100 (State.reset.setReg 0 0xFFFD))

theorem witness_PutsEmitsUpToZeroWord :
    twoWords.config.wf ∧ (twoWords.reg 0).toNat + 2 ≤ 65535 ∧ (∀ k < 2, twoWords.mem.read (twoWords.reg 0 + BitVec.ofNat 16 k) ≠ 0) ∧
      twoWords.mem.read (twoWords.reg 0 + BitVec.ofNat 16 2) = 0 := by decide
theorem witness_PutspEmitsPackedBytes_empty :
    State.reset.config.wf ∧ (State.reset.reg 0).toNat + 0 ≤ 65535 ∧ (∀ k < 0, State.reset.mem.read (State.reset.reg 0 + BitVec.ofNat 16 k) ≠ 0) ∧
      State.reset.mem.read (State.reset.reg 0 + BitVec.ofNat 16 0) = 0 := by decide
/-- A string of one word, the last of memory. -/
def lastWord : State := storeWord 0xFFFF 0x4241 (State.reset.setReg 0 0xFFFF)

theorem witness_StringPastEndIsFatal :
    lastWord.config.wf ∧ ∀ k, (lastWord.reg 0).toNat + k ≤ 65535 → lastWord.mem.read (lastWord.reg 0 + BitVec.ofNat 16 k) ≠ 0 := by
  refine ⟨by decide, fun k hk => ?_⟩
  have h : (lastWord.reg 0).toNat = 65535 := by decide
  obtain rfl : k = 0 := by omega
  decide

/-- OUT and BR ask for parameters of one machine alone. -/
theorem witness_OutEmitsLowByte : State.reset.config.wf := by decide
theorem witness_BrTakenIffMaskMeetsFlags : { State.reset with cond := 0b010 }.config.wf := by decide

theorem witness_StepRunsDecodedInstruction :
    (running 0xFE02 0x1241).status = .running ∧ (running 0xFE02 0x1241).pc ≠ State.reset.config.kbsrAddr ∧
      decode Config.standard ((running 0xFE02 0x1241).mem.read (running 0xFE02 0x1241).pc) = .add 1 1 1 ∧
      exec (.add 1 1 1) { deliver (running 0xFE02 0x1241) with pc := (running 0xFE02 0x1241).pc + 1 } ≠ .fault .inputHold :=
  ⟨rfl, by decide, by decide, by simp [exec, execAdd]⟩
theorem witness_StepRunsDecodedInstruction_held :
    (running 0x3000 0xF020).status = .running ∧ (running 0x3000 0xF020).pc ≠ State.reset.config.kbsrAddr ∧
      decode Config.standard ((running 0x3000 0xF020).mem.read (running 0x3000 0xF020).pc) = .trapGetc ∧
      exec .trapGetc { deliver (running 0x3000 0xF020) with pc := (running 0x3000 0xF020).pc + 1 } = .fault .inputHold :=
  ⟨rfl, by decide, by decide, rfl⟩
theorem witness_FetchFromKeyboardStatusPolls_empty :
    (running 0xFE00 0xF020).config.wf ∧ (running 0xFE00 0xF020).status = .running ∧
      (running 0xFE00 0xF020).pc = State.reset.config.kbsrAddr ∧ (deliver (running 0xFE00 0xF020)).input = [] ∧
      (running 0xFE00 0xF020).config.opcodes.br = 0 := ⟨by decide, rfl, rfl, rfl, rfl⟩

/-- A machine about to fetch a word from KBSR, with one byte pending. -/
def atKeyboardStatus (word : Word) : State := { running 0xFE00 word with input := [0x41] }

/-- That machine after the fetch's poll, as the obligation writes it. -/
def polledState (word : Word) : State :=
  { deliver (atKeyboardStatus word) with
      mem := ((atKeyboardStatus word).mem.write 0xFE00 (word ||| 0x8000)).write 0xFE02 ((0x41 : Byte).setWidth 16),
      input := [], pc := 0xFE01 }

theorem witness_FetchFromKeyboardStatusPolls_ready :
    (atKeyboardStatus 0xF020).config.wf ∧ (atKeyboardStatus 0xF020).status = .running ∧
      (atKeyboardStatus 0xF020).pc = State.reset.config.kbsrAddr ∧ (deliver (atKeyboardStatus 0xF020)).input = 0x41 :: [] :=
  ⟨by decide, rfl, rfl, rfl⟩

/-- With GETC at KBSR the fetch takes the only byte and GETC waits; with 0 there the word run is RTI, which does not. -/
theorem witness_FetchFromKeyboardStatusPolls_held :
    exec (decode Config.standard ((atKeyboardStatus 0xF020).mem.read 0xFE00 ||| 0x8000)) (polledState 0xF020) = .fault .inputHold ∧
      exec (decode Config.standard ((atKeyboardStatus 0).mem.read 0xFE00 ||| 0x8000)) (polledState 0) ≠ .fault .inputHold := by
  have getc : decode Config.standard ((atKeyboardStatus 0xF020).mem.read 0xFE00 ||| 0x8000) = .trapGetc := by decide
  have rti : decode Config.standard ((atKeyboardStatus 0).mem.read 0xFE00 ||| 0x8000) = .rti := by decide
  rw [getc, rti]
  exact ⟨rfl, by simp [exec, execRti]⟩
theorem witness_OnlyBlockingReadsWait_waits : (Instr.trapIn = .trapGetc ∨ Instr.trapIn = .trapIn) ∧ State.reset.input = [] := by
  decide
theorem witness_OnlyBlockingReadsWait_runs :
    ¬ ((Instr.trapPuts = .trapGetc ∨ Instr.trapPuts = .trapIn) ∧ State.reset.input = []) := by decide
theorem witness_HeldGetcResumesWhenInputArrives :
    (running 0x3000 0xF020).status = .running ∧ (running 0x3000 0xF020).pc ≠ State.reset.config.kbsrAddr ∧
      decode Config.standard ((running 0x3000 0xF020).mem.read (running 0x3000 0xF020).pc) = .trapGetc ∧
      (running 0x3000 0xF020).input = [] := ⟨rfl, by decide, by decide, rfl⟩
theorem witness_EndedRunTakesNoStep :
    ({ State.reset with status := .halted } : State).status = .halted ∧
      ({ State.reset with status := .fatal .invalidOpcode } : State).status = .fatal .invalidOpcode := ⟨rfl, rfl⟩
theorem witness_LoaderPlacesBigEndianWords : ([0x30] : List Byte).length < 2 := by decide
theorem witness_BootLoadsImagesInOrderThenStarts : State.reset.status = .idle ∧ State.reset.arrivals = [] := ⟨rfl, rfl⟩
theorem witness_UnreadableImageIsFatal :
    ({ State.reset with images := [none] } : State).status = .idle ∧
      ({ State.reset with images := [none] } : State).images = none :: [] := ⟨rfl, rfl⟩
theorem witness_ResetMeetsInvariant : Config.standard.wf := by decide

/-- A machine of other numbers than the standard ones: opcodes the other way round, fields moved, other flags, link, devices. -/
def otherMachine : Config :=
  { Config.standard with
      opcodes :=
        { br := 15, add := 14, ld := 13, st := 12, jsr := 11, and := 10, ldr := 9, str := 8, rti := 7, not := 6, ldi := 5,
          sti := 4, jmp := 3, res := 2, lea := 1, trap := 0 },
      layout := { dr := 0, sr1 := 3, sr2 := 6, imode := 11, imm5 := 6, jmode := 0, off6 := 6, off9 := 3, off11 := 1 },
      flagN := 0b001, flagP := 0b100, linkReg := 6, kbsrAddr := 0xFF00, kbdrAddr := 0xFF01, condReset := 0b100 }

/-- Such parameters meet `Config.wf` too, so the claims are about more machines than one; and they are used: the word of
`ADD R1, R2, #-1` there, and the link of its JSR. -/
theorem witness_otherMachine : otherMachine.wf := by decide
theorem test_otherMachine_encodes :
    encode otherMachine (.addImm 1 2 0b11111) = 0b1110_1_11111_010_001#16 ∧
      decode otherMachine 0b1110_1_11111_010_001#16 = .addImm 1 2 0b11111 := by decide
theorem test_otherMachine_links :
    (goesOn (exec (.jsr 5) { State.resetWith otherMachine with pc := 0x3001 })).map (fun t => (t.reg 6, t.reg 7, t.pc)) =
      some (0x3001, 0, 0x3006) := by decide

/-- A state that meets the invariant, and its next state: for the claims about every step. -/
theorem witness_EveryStepKeepsInvariant :
    StateInv { running 0x3000 0x1021 with cond := 0b010 } ∧
      ∃ t, step { running 0x3000 0x1021 with cond := 0b010 } = .next t := ⟨by decide, _, rfl⟩
theorem witness_ExactlyOneFlagIsKept :
    oneFlag { running 0x3000 0x1021 with cond := 0b010 } ∧
      ∃ t, step { running 0x3000 0x1021 with cond := 0b010 } = .next t := ⟨by decide, _, rfl⟩
theorem witness_StatusMovesOnlyAsListed : ∃ t, step State.reset = .next t := ⟨_, rfl⟩
theorem witness_ParametersNeverChange : ∃ t, step State.reset = .next t := ⟨_, rfl⟩
theorem witness_ConsoleLogsMoveForwardOnly : ∃ t, step { State.reset with arrivals := [[0x41]] } = .next t := ⟨_, rfl⟩

theorem witness_FlagsFollowDestinationRegisterOnly :
    (∃ t, exec (.lea 0 0) State.reset = .next t) ∧ destReg (.lea 0 0) = some 0 ∧
      (∃ t, exec (.jsr 0) State.reset = .next t) ∧ destReg (.jsr 0) = none := ⟨⟨_, rfl⟩, rfl, ⟨_, rfl⟩, rfl⟩
theorem witness_OnlyListedRegistersAreWritten :
    (∃ t, exec (.jsr 0) State.reset = .next t) ∧ (6 : Reg) ∉ writtenRegs (.jsr 0) State.reset.config :=
  ⟨⟨_, rfl⟩, by decide⟩
theorem witness_OnlyControlTransfersWritePc :
    (∃ t, exec .trapHalt State.reset = .next t) ∧ writesPc .trapHalt = false := ⟨⟨_, rfl⟩, rfl⟩
theorem witness_MemoryChangesOnlyAtStoresAndPolls :
    (∃ t, exec (.st 0 0) State.reset = .next t) ∧ storeTarget (.st 0 0) State.reset ≠ some 1 ∧
      (State.reset.config.kbsrAddr ∈ readAddrs (.st 0 0) State.reset → (1 : Word) ≠ State.reset.config.kbsrAddr ∧ (1 : Word) ≠ State.reset.config.kbdrAddr) := ⟨⟨_, rfl⟩, by decide, by decide⟩
theorem witness_MemoryChangesOnlyAtStoresAndPolls_polling :
    (∃ t, exec (.ld 0 0) { State.reset with pc := 0xFE00 } = .next t) ∧
      storeTarget (.ld 0 0) { State.reset with pc := 0xFE00 } ≠ some 0xFE01 ∧
      State.reset.config.kbsrAddr ∈ readAddrs (.ld 0 0) { State.reset with pc := 0xFE00 } ∧ (0xFE01 : Word) ≠ State.reset.config.kbsrAddr ∧ (0xFE01 : Word) ≠ State.reset.config.kbdrAddr :=
  ⟨⟨_, rfl⟩, by decide, by decide, by decide, by decide⟩
theorem witness_ConsoleTouchedOnlyByItsUsers :
    (∃ t, exec (.ld 0 0) State.reset = .next t) ∧ State.reset.config.kbsrAddr ∉ readAddrs (.ld 0 0) State.reset := ⟨⟨_, rfl⟩, by decide⟩
theorem witness_FatalOnlyFromListedCauses :
    (running 0x3000 0).status = .running ∧
      ∃ t, exec .rti (running 0x3000 0) = .next t ∧ t.status = .fatal .invalidOpcode := ⟨rfl, _, rfl, rfl⟩
theorem witness_KeyboardSeenOnlyThroughPollsAndReads :
    Instr.ld 0 0 ≠ .trapGetc ∧ Instr.ld 0 0 ≠ .trapIn ∧ State.reset.config.kbsrAddr ∉ readAddrs (.ld 0 0) State.reset := by decide

end Sys2Proof.Tests
end

section
/-! Noninterference of the output log (00_scope.md R7): bytes printed earlier ride along unseen through every operation of the
machine, so a step does the same with them and without them. -/

namespace Sys2Proof.Machine

open Sys2Proof.Safety

/-- The same machine with more printed before: bytes put before its output log. -/
def State.printedBefore (before : List Byte) (s : State) : State := { s with output := before ++ s.output }

/-! ### What a machine that printed earlier shows: every field but the log is the same -/

@[simp] theorem State.printedBefore_regs (before : List Byte) (s : State) : (s.printedBefore before).regs = s.regs := rfl
@[simp] theorem State.printedBefore_pc (before : List Byte) (s : State) : (s.printedBefore before).pc = s.pc := rfl
@[simp] theorem State.printedBefore_cond (before : List Byte) (s : State) : (s.printedBefore before).cond = s.cond := rfl
@[simp] theorem State.printedBefore_mem (before : List Byte) (s : State) : (s.printedBefore before).mem = s.mem := rfl
@[simp] theorem State.printedBefore_status (before : List Byte) (s : State) : (s.printedBefore before).status = s.status := rfl
@[simp] theorem State.printedBefore_input (before : List Byte) (s : State) : (s.printedBefore before).input = s.input := rfl
@[simp] theorem State.printedBefore_output (before : List Byte) (s : State) :
    (s.printedBefore before).output = before ++ s.output := rfl
@[simp] theorem State.printedBefore_config (before : List Byte) (s : State) : (s.printedBefore before).config = s.config := rfl
@[simp] theorem State.printedBefore_images (before : List Byte) (s : State) : (s.printedBefore before).images = s.images := rfl
@[simp] theorem State.printedBefore_arrivals (before : List Byte) (s : State) :
    (s.printedBefore before).arrivals = s.arrivals := rfl
@[simp] theorem State.printedBefore_reg (before : List Byte) (s : State) (r : Reg) :
    (s.printedBefore before).reg r = s.reg r := rfl
@[simp] theorem flagsMeet_printedBefore (nzp : BitVec 3) (before : List Byte) (s : State) :
    flagsMeet nzp (s.printedBefore before) = flagsMeet nzp s := rfl
@[simp] theorem pcRelative_printedBefore {n : Nat} (off : BitVec n) (before : List Byte) (s : State) :
    pcRelative off (s.printedBefore before) = pcRelative off s := rfl
@[simp] theorem baseOffset_printedBefore (baseR : Reg) (off6 : BitVec 6) (before : List Byte) (s : State) :
    baseOffset baseR off6 (s.printedBefore before) = baseOffset baseR off6 s := rfl

/-! ### Every operation commutes with printing earlier -/

@[simp] theorem memWrite_printedBefore (a v : Word) (before : List Byte) (s : State) :
    memWrite a v (s.printedBefore before) = (memWrite a v s).printedBefore before := rfl
@[simp] theorem writeDest_printedBefore (dr : Reg) (v : Word) (before : List Byte) (s : State) :
    writeDest dr v (s.printedBefore before) = (writeDest dr v s).printedBefore before := rfl
@[simp] theorem writeLink_printedBefore (before : List Byte) (s : State) :
    writeLink (s.printedBefore before) = (writeLink s).printedBefore before := rfl
@[simp] theorem jumpTo_printedBefore (target : Word) (before : List Byte) (s : State) :
    jumpTo target (s.printedBefore before) = (jumpTo target s).printedBefore before := rfl
@[simp] theorem raiseFatal_printedBefore (cause : Cause) (before : List Byte) (s : State) :
    raiseFatal cause (s.printedBefore before) = (raiseFatal cause s).printedBefore before := rfl

/-- The one operation that touches the log adds at its other end. -/
@[simp] theorem consoleOut_printedBefore (bs before : List Byte) (s : State) :
    consoleOut bs (s.printedBefore before) = (consoleOut bs s).printedBefore before := by
  simp [consoleOut, State.printedBefore]

@[simp] theorem trapEntry_printedBefore (before : List Byte) (s : State) :
    trapEntry (s.printedBefore before) = (trapEntry s).printedBefore before := by
  cases h : s.config.trapSavesLink <;> simp [trapEntry, h]

theorem pollKeyboard_printedBefore (before : List Byte) (s : State) :
    pollKeyboard (s.printedBefore before) = (pollKeyboard s).printedBefore before := by
  cases h : s.input with
  | nil => rw [pollKeyboard_empty s h, pollKeyboard_empty (s.printedBefore before) h]; rfl
  | cons c rest => rw [pollKeyboard_ready s c rest h, pollKeyboard_ready (s.printedBefore before) c rest h]; rfl

@[simp] theorem readEffect_printedBefore (a : Word) (before : List Byte) (s : State) :
    readEffect a (s.printedBefore before) = (readEffect a s).printedBefore before := by
  by_cases h : a = s.config.kbsrAddr
  · subst h
    rw [readEffect_kbsr s, ← pollKeyboard_printedBefore]
    exact readEffect_kbsr (s.printedBefore before)
  · rw [readEffect_of_ne a s h, readEffect_of_ne a (s.printedBefore before) h]

@[simp] theorem memRead_fst_printedBefore (a : Word) (before : List Byte) (s : State) :
    (memRead a (s.printedBefore before)).1 = (memRead a s).1 := by
  simp [memRead_fst]

@[simp] theorem loadInto_printedBefore (dr : Reg) (ea : Word) (before : List Byte) (s : State) :
    loadInto dr ea (s.printedBefore before) = (loadInto dr ea s).printedBefore before := by
  simp [loadInto]

@[simp] theorem emitString_printedBefore (emit : Word → List Byte) (before : List Byte) (s : State) :
    emitString emit (s.printedBefore before) = (emitString emit s).printedBefore before := by
  simp only [emitString, State.printedBefore_mem, State.printedBefore_reg, consoleOut_printedBefore,
    raiseFatal_printedBefore]
  split
  · rfl
  · rfl

theorem deliver_printedBefore (before : List Byte) (s : State) :
    deliver (s.printedBefore before) = (deliver s).printedBefore before := by
  cases h : s.arrivals with
  | nil => rw [deliver_of_nil s h, deliver_of_nil (s.printedBefore before) h]
  | cons bytes rest => simp [deliver, h]; rfl

theorem hostBoot_printedBefore (before : List Byte) (s : State) :
    hostBoot (s.printedBefore before) = (hostBoot s).printedBefore before := by
  rcases h : s.images with _ | ⟨_ | bytes, rest⟩
  · simp [hostBoot, h]; rfl
  · simp [hostBoot, h]; rfl
  · simp [hostBoot, h]; rfl

theorem fetch_printedBefore (before : List Byte) (s : State) :
    fetch (s.printedBefore before) = ((fetch s).1, (fetch s).2.printedBefore before) := by
  simp [fetch_eq]; rfl

/-! ### So does every instruction, and the step -/

@[simp] theorem prependOutput_next (before : List Byte) (s : State) :
    prependOutput before (.next s) = .next (s.printedBefore before) := rfl

@[simp] theorem prependOutput_fault (before : List Byte) (reason : Fault) :
    prependOutput before (.fault reason) = .fault reason := rfl

theorem execBr_printedBefore (nzp : BitVec 3) (off9 : BitVec 9) (before : List Byte) (s : State) :
    execBr nzp off9 (s.printedBefore before) = prependOutput before (execBr nzp off9 s) := by
  cases h : flagsMeet nzp s <;> simp [execBr, h]

theorem execTrapGetc_printedBefore (before : List Byte) (s : State) :
    execTrapGetc (s.printedBefore before) = prependOutput before (execTrapGetc s) := by
  cases h : s.input with
  | nil => simp [execTrapGetc, h]
  | cons c rest => simp [execTrapGetc, h]; rfl

theorem execTrapIn_printedBefore (before : List Byte) (s : State) :
    execTrapIn (s.printedBefore before) = prependOutput before (execTrapIn s) := by
  cases h : s.input with
  | nil => simp [execTrapIn, h]
  | cons c rest => simp [execTrapIn, h, consoleOut]; rfl

/-- An instruction does the same whatever was printed before it. Those closed by `rfl` neither read memory through the read
path nor enter a trap routine: their operations commute with printing earlier by computation. -/
theorem exec_printedBefore (i : Instr) (before : List Byte) (s : State) :
    exec i (s.printedBefore before) = prependOutput before (exec i s) := by
  cases i with
  | br nzp off9 => exact execBr_printedBefore nzp off9 before s
  | trapGetc => exact execTrapGetc_printedBefore before s
  | trapIn => exact execTrapIn_printedBefore before s
  | add | addImm | and | andImm | not => rfl
  | lea | st | str | jsr | jsrr | jmp | rti | res => rfl
  | ld | ldr => simp [exec, execLd, execLdr]
  | ldi => simp [exec, execLdi]
  | sti => simp [exec, execSti]
  | trapOut => simp [exec, execTrapOut]
  | trapPuts | trapPutsp => simp [exec, execTrapPuts, execTrapPutsp]
  | trapHalt => simp [exec, execTrapHalt]; rfl
  | trapInvalid => simp [exec, execTrapInvalid]

theorem orHold_printedBefore (s : State) (before : List Byte) (r : Result) :
    orHold (s.printedBefore before) (prependOutput before r) = prependOutput before (orHold s r) := by
  rcases r with t | (_ | _ | _) | _ <;> rfl

theorem instructionStep_printedBefore (before : List Byte) (s : State) :
    instructionStep (s.printedBefore before) = prependOutput before (instructionStep s) := by
  simp only [instructionStep, fetch_printedBefore, State.printedBefore_config, exec_printedBefore, orHold_printedBefore]

theorem cycle_printedBefore (before : List Byte) (s : State) :
    cycle (s.printedBefore before) = prependOutput before (cycle s) := by
  cases h : s.status with
  | running => simp [cycle, h, instructionStep_printedBefore]
  | idle => simp [cycle, h, hostBoot_printedBefore]
  | halted | fatal => simp [cycle, h]

theorem step_printedBefore (before : List Byte) (s : State) :
    step (s.printedBefore before) = prependOutput before (step s) := by
  rw [step, deliver_printedBefore, cycle_printedBefore, step]

/-- Settles O58: every operation of a step, from the arrivals to the hold, commutes with printing more bytes earlier. -/
theorem outputLogIsWriteOnly : Obligations.OutputLogIsWriteOnly :=
  fun s before => step_printedBefore before s

end Sys2Proof.Machine
end

section
/-! The canonical form is faithful (10_state.md R19): what a canonical memory lists is exactly what it reads, so reading alike
makes the lists equal. -/

namespace Sys2Proof.Machine

/-- A cell listed in a memory of rising addresses is the one its address reads. -/
theorem Memory.lookup_of_mem (m : Memory) (h : m.Pairwise (fun c d => c.1 < d.1)) (c : Cell) (hc : c ∈ m) :
    m.lookup c.1 = c.2 := by
  induction m with
  | nil => simp at hc
  | cons d m ih =>
    obtain ⟨hd, hm⟩ := List.pairwise_cons.1 h
    rw [Memory.lookup_cons]
    rcases List.mem_cons.1 hc with rfl | hc
    · exact if_pos rfl
    · rw [if_neg (hd c hc).ne, ih hm hc]

/-- An address that does not read zero is listed, with the word it reads. -/
theorem Memory.mem_of_lookup_ne_zero (m : Memory) (a : Nat) (h : m.lookup a ≠ 0) : (a, m.lookup a) ∈ m := by
  induction m with
  | nil => exact absurd rfl h
  | cons d m ih =>
    rw [Memory.lookup_cons] at h ⊢
    split
    · subst a
      exact List.mem_cons_self
    · rename_i hd
      rw [if_neg hd] at h
      exact List.mem_cons_of_mem d (ih h)

/-- What a canonical memory lists, in terms of what it reads. -/
theorem Memory.mem_iff_read (m : Memory) (h : m.wf) (c : Cell) :
    c ∈ m ↔ ∃ a : Word, a.toNat = c.1 ∧ m.read a = c.2 ∧ c.2 ≠ 0 := by
  constructor
  · intro hc
    obtain ⟨hlt, hne⟩ := h.2 c hc
    have ha : (BitVec.ofNat 16 c.1).toNat = c.1 := by simp [Nat.mod_eq_of_lt hlt]
    exact ⟨BitVec.ofNat 16 c.1, ha, by rw [Memory.read, ha, Memory.lookup_of_mem m h.1 c hc], hne⟩
  · rintro ⟨a, ha, hread, hne⟩
    rw [Memory.read, ha] at hread
    have hmem := Memory.mem_of_lookup_ne_zero m c.1 (hread ▸ hne)
    rwa [hread] at hmem

/-- A memory of rising addresses lists no cell twice. -/
theorem Memory.nodup_of_wf (m : Memory) (h : m.wf) : m.Nodup :=
  h.1.imp fun hlt heq => hlt.ne (congrArg Prod.fst heq)

/-- Settles O8: both lists have the same cells, those their common reads name, in the one rising order. -/
theorem canonicalMemoriesThatReadAlikeAreEqual : Obligations.CanonicalMemoriesThatReadAlikeAreEqual := by
  intro m n hm hn hread
  have hperm : m.Perm n := (List.perm_ext_iff_of_nodup (m.nodup_of_wf hm) (n.nodup_of_wf hn)).2 fun c => by
    simp only [m.mem_iff_read hm, n.mem_iff_read hn, hread]
  exact hperm.eq_of_pairwise (fun c d _ _ hcd hdc => absurd hcd hdc.asymm) hm.1 hn.1

end Sys2Proof.Machine
end

section
/-! What a jump, a load and the fetch leave, field by field: the rules the whole-machine claims about `exec` and `step` use
beside those of Laws/State.lean and Laws/Ops.lean. -/

namespace Sys2Proof.Machine

@[simp] theorem jumpTo_regs (target : Word) (s : State) : (jumpTo target s).regs = s.regs := rfl
@[simp] theorem jumpTo_pc (target : Word) (s : State) : (jumpTo target s).pc = target := rfl
@[simp] theorem jumpTo_cond (target : Word) (s : State) : (jumpTo target s).cond = s.cond := rfl
@[simp] theorem jumpTo_mem (target : Word) (s : State) : (jumpTo target s).mem = s.mem := rfl
@[simp] theorem jumpTo_status (target : Word) (s : State) : (jumpTo target s).status = s.status := rfl
@[simp] theorem jumpTo_input (target : Word) (s : State) : (jumpTo target s).input = s.input := rfl
@[simp] theorem jumpTo_output (target : Word) (s : State) : (jumpTo target s).output = s.output := rfl
@[simp] theorem jumpTo_config (target : Word) (s : State) : (jumpTo target s).config = s.config := rfl
@[simp] theorem jumpTo_images (target : Word) (s : State) : (jumpTo target s).images = s.images := rfl
@[simp] theorem jumpTo_arrivals (target : Word) (s : State) : (jumpTo target s).arrivals = s.arrivals := rfl

@[simp] theorem loadInto_pc (dr : Reg) (ea : Word) (s : State) : (loadInto dr ea s).pc = s.pc := by simp [loadInto]
@[simp] theorem loadInto_mem (dr : Reg) (ea : Word) (s : State) : (loadInto dr ea s).mem = (readEffect ea s).mem := rfl
@[simp] theorem loadInto_status (dr : Reg) (ea : Word) (s : State) : (loadInto dr ea s).status = s.status := by
  simp [loadInto]
@[simp] theorem loadInto_input (dr : Reg) (ea : Word) (s : State) :
    (loadInto dr ea s).input = (readEffect ea s).input := rfl
@[simp] theorem loadInto_output (dr : Reg) (ea : Word) (s : State) : (loadInto dr ea s).output = s.output := by
  simp [loadInto]
@[simp] theorem loadInto_config (dr : Reg) (ea : Word) (s : State) : (loadInto dr ea s).config = s.config := by
  simp [loadInto]
@[simp] theorem loadInto_images (dr : Reg) (ea : Word) (s : State) : (loadInto dr ea s).images = s.images := by
  simp [loadInto]
@[simp] theorem loadInto_arrivals (dr : Reg) (ea : Word) (s : State) : (loadInto dr ea s).arrivals = s.arrivals := by
  simp [loadInto]

/-- A load from any address but KBSR is a plain write of the stored word (20_memory.md R32). -/
theorem loadInto_of_ne (dr : Reg) (ea : Word) (s : State) (h : ea ≠ s.config.kbsrAddr) :
    loadInto dr ea s = writeDest dr (s.mem.read ea) s := by
  rw [loadInto, memRead_of_ne ea s h]

@[simp] theorem fetch_snd_cond (s : State) : (fetch s).2.cond = s.cond := by simp [fetch_eq]
@[simp] theorem fetch_snd_mem (s : State) : (fetch s).2.mem = (readEffect s.pc s).mem := by simp [fetch_eq]
@[simp] theorem fetch_snd_status (s : State) : (fetch s).2.status = s.status := by simp [fetch_eq]
@[simp] theorem fetch_snd_input (s : State) : (fetch s).2.input = (readEffect s.pc s).input := by simp [fetch_eq]
@[simp] theorem fetch_snd_output (s : State) : (fetch s).2.output = s.output := by simp [fetch_eq]
@[simp] theorem fetch_snd_config (s : State) : (fetch s).2.config = s.config := by simp [fetch_eq]

/-- A read takes input from the front only. -/
theorem readEffect_input_suffix (a : Word) (s : State) : (readEffect a s).input <:+ s.input := by
  rw [readEffect_input]
  split
  · exact s.input.tail_suffix
  · exact s.input.suffix_refl

end Sys2Proof.Machine
end

section
/-! The keyboard is seen through KBSR, GETC and IN only (10_state.md R21): pending input rides along unseen through every other
operation, so an instruction that uses none of the three does the same with any queue and leaves it. -/

namespace Sys2Proof.Machine

open Sys2Proof.Safety

/-- The same machine with another input queue. -/
def State.withPending (pending : List Byte) (s : State) : State := { s with input := pending }

@[simp] theorem State.withPending_mem (pending : List Byte) (s : State) : (s.withPending pending).mem = s.mem := rfl
@[simp] theorem State.withPending_reg (pending : List Byte) (s : State) (r : Reg) :
    (s.withPending pending).reg r = s.reg r := rfl
@[simp] theorem pcRelative_withPending {n : Nat} (off : BitVec n) (pending : List Byte) (s : State) :
    pcRelative off (s.withPending pending) = pcRelative off s := rfl
@[simp] theorem baseOffset_withPending (baseR : Reg) (off6 : BitVec 6) (pending : List Byte) (s : State) :
    baseOffset baseR off6 (s.withPending pending) = baseOffset baseR off6 s := rfl

@[simp] theorem withInput_next (pending : List Byte) (s : State) :
    withInput pending (.next s) = .next (s.withPending pending) := rfl

/-- A read of any address but KBSR gives the same word whatever is pending, and no effect. -/
theorem memRead_withPending (a : Word) (pending : List Byte) (s : State) (h : a ≠ s.config.kbsrAddr) :
    memRead a (s.withPending pending) = (s.mem.read a, s.withPending pending) :=
  memRead_of_ne a (s.withPending pending) h

theorem loadInto_withPending (dr : Reg) (ea : Word) (pending : List Byte) (s : State) (h : ea ≠ s.config.kbsrAddr) :
    loadInto dr ea (s.withPending pending) = (loadInto dr ea s).withPending pending := by
  rw [loadInto_of_ne dr ea s h, loadInto_of_ne dr ea (s.withPending pending) h]
  rfl

@[simp] theorem trapEntry_withPending (pending : List Byte) (s : State) :
    trapEntry (s.withPending pending) = (trapEntry s).withPending pending :=
  (apply_ite (State.withPending pending) _ (writeLink s) s).symm

@[simp] theorem emitString_withPending (emit : Word → List Byte) (pending : List Byte) (s : State) :
    emitString emit (s.withPending pending) = (emitString emit s).withPending pending := by
  simp only [emitString, State.withPending_mem, State.withPending_reg, apply_ite (State.withPending pending)]
  rfl

theorem execBr_withPending (nzp : BitVec 3) (off9 : BitVec 9) (pending : List Byte) (s : State) :
    execBr nzp off9 (s.withPending pending) = withInput pending (execBr nzp off9 s) :=
  congrArg Host.Outcome.next (apply_ite (State.withPending pending) _ (jumpTo (pcRelative off9 s) s) s).symm

/-- The two reads of LDI, where neither is of KBSR: both are plain (20_memory.md R32, R44). -/
theorem ldi_reads_ne_kbsr (dr : Reg) (off9 : BitVec 9) (s : State) (h : s.config.kbsrAddr ∉ readAddrs (.ldi dr off9) s) :
    pcRelative off9 s ≠ s.config.kbsrAddr ∧ s.mem.read (pcRelative off9 s) ≠ s.config.kbsrAddr := by
  simp only [readAddrs, List.mem_cons, List.not_mem_nil, or_false, not_or] at h
  obtain ⟨hpointer, hword⟩ := h
  rw [memRead_of_ne _ s (Ne.symm hpointer)] at hword
  exact ⟨Ne.symm hpointer, Ne.symm hword⟩

/-- An instruction that does not read the keyboard does the same whatever is pending. Those closed by `rfl` neither read memory
through the read path nor enter a trap routine. -/
theorem exec_withPending (i : Instr) (s : State) (pending : List Byte) (hgetc : i ≠ .trapGetc) (hin : i ≠ .trapIn)
    (hpoll : s.config.kbsrAddr ∉ readAddrs i s) :
    exec i (s.withPending pending) = withInput pending (exec i s) := by
  cases i with
  | trapGetc => exact absurd rfl hgetc
  | trapIn => exact absurd rfl hin
  | br nzp off9 => exact execBr_withPending nzp off9 pending s
  | add | addImm | and | andImm | not => rfl
  | lea | st | str | jsr | jsrr | jmp | rti | res => rfl
  | ld | ldr =>
    have hplain := ne_of_mem_of_not_mem List.mem_cons_self hpoll
    simp [exec, execLd, execLdr, loadInto_withPending _ _ pending s hplain]
  | ldi dr off9 =>
    obtain ⟨hpointer, hword⟩ := ldi_reads_ne_kbsr dr off9 s hpoll
    simp [exec, execLdi, memRead_withPending _ pending s hpointer, memRead_of_ne _ s hpointer,
      loadInto_withPending dr _ pending s hword]
  | sti =>
    have hplain := ne_of_mem_of_not_mem List.mem_cons_self hpoll
    simp [exec, execSti, memRead_withPending _ pending s hplain, memRead_of_ne _ s hplain]
    rfl
  | trapPuts | trapPutsp => simp [exec, execTrapPuts, execTrapPutsp]
  | trapOut | trapHalt | trapInvalid =>
    simp only [exec, execTrapOut, execTrapHalt, execTrapInvalid, trapEntry_withPending]
    rfl

/-- Settles O59: outside KBSR, GETC and IN every operation commutes with a change of the pending input. -/
theorem keyboardSeenOnlyThroughPollsAndReads : Obligations.KeyboardSeenOnlyThroughPollsAndReads :=
  exec_withPending

end Sys2Proof.Machine
end

section
/-! What `exec` leaves of each field, for every instruction, read off the inversion `exec_next`. -/

namespace Sys2Proof.Machine

open Sys2Proof.Safety

theorem exec_config (i : Instr) (s t : State) (h : exec i s = .next t) : t.config = s.config := by
  replace h := exec_next i s t h
  cases i with
  | br => cases h; split <;> rfl
  | trapGetc | trapIn => obtain ⟨c, rest, -, rfl⟩ := h; simp
  | _ => cases h; simp

/-- Memory stays canonical: the stores and the polls of the read path are the only writes (20_memory.md R34, R44). -/
theorem exec_mem_wf (i : Instr) (s t : State) (h : exec i s = .next t) (hs : s.mem.wf) : t.mem.wf := by
  replace h := exec_next i s t h
  cases i with
  | ld | ldr => cases h; exact readEffect_wf _ s hs
  | ldi => cases h; exact readEffect_wf _ _ (readEffect_wf _ s hs)
  | st | str => cases h; exact Memory.wf_write _ _ _ hs
  | sti => cases h; exact Memory.wf_write _ _ _ (readEffect_wf _ s hs)
  | br => cases h; split <;> exact hs
  | trapGetc | trapIn => obtain ⟨c, rest, -, rfl⟩ := h; simpa using hs
  | _ => cases h; simpa using hs

/-- How the status of a running machine moves (10_state.md R18, 60_exceptions.md R152): HALT halts it, three kinds of
instruction are fatal, and every other one leaves it running. -/
theorem exec_status (i : Instr) (s t : State) (h : exec i s = .next t) (hs : s.status = .running) :
    t.status = .running ∨ t.status = .halted ∨ t.status = .fatal .invalidOpcode ∨ t.status = .fatal .invalidTrapVector ∨
      t.status = .fatal .stringOverrun := by
  replace h := exec_next i s t h
  cases i with
  | br => cases h; split <;> exact .inl hs
  | trapHalt => cases h; exact .inr (.inl rfl)
  | rti | res => cases h; exact .inr (.inr (.inl rfl))
  | trapInvalid => cases h; exact .inr (.inr (.inr (.inl rfl)))
  | trapPuts | trapPutsp =>
    cases h
    rw [emitString_status]
    split
    · simp [hs]
    · simp
  | trapGetc | trapIn => obtain ⟨c, rest, -, rfl⟩ := h; simp [hs]
  | _ => cases h; simp [hs]

/-- The model's flag computation is the sign class of the value as a number (40_step_and_decode.md R73). -/
theorem flagsOf_eq_signClass (config : Config) (v : Word) : flagsOf config v = signClass config v := by
  simp only [flagsOf, signClass, ← BitVec.toNat_inj, BitVec.msb_eq_decide]
  simp

theorem signClass_oneFlag (config : Config) (v : Word) : config.oneFlag (signClass config v) := by
  unfold signClass
  split
  · exact .inr (.inl rfl)
  · split
    · exact .inl rfl
    · exact .inr (.inr rfl)

/-- A destination write leaves the sign class of the register it wrote in the flags (10_state.md R17). -/
theorem writeDest_cond_eq_signClass (dr : Reg) (v : Word) (s : State) :
    (writeDest dr v s).cond = signClass s.config ((writeDest dr v s).reg dr) := by
  rw [writeDest_cond, writeDest_reg, if_pos rfl, flagsOf_eq_signClass]

theorem loadInto_cond_eq_signClass (dr : Reg) (ea : Word) (s : State) :
    (loadInto dr ea s).cond = signClass s.config ((loadInto dr ea s).reg dr) := by
  rw [loadInto, writeDest_cond_eq_signClass, memRead_snd, readEffect_config]

/-- Settles O50: the seven instructions end in a destination write, which sets the flags; the others leave them. -/
theorem flagsFollowDestinationRegisterOnly : Obligations.FlagsFollowDestinationRegisterOnly := by
  intro i s t h
  replace h := exec_next i s t h
  cases i with
  | add | addImm | and | andImm | not | lea => cases h; exact writeDest_cond_eq_signClass _ _ s
  | ld | ldr => cases h; exact loadInto_cond_eq_signClass _ _ s
  | ldi dr off9 =>
    cases h
    simpa [destReg] using loadInto_cond_eq_signClass dr (memRead (pcRelative off9 s) s).1 (memRead (pcRelative off9 s) s).2
  | br => cases h; simp only [destReg]; split <;> rfl
  | trapGetc | trapIn => obtain ⟨c, rest, -, rfl⟩ := h; simp [destReg]
  | _ => cases h; simp [destReg]

/-- An instruction leaves the flags or sets exactly one (10_state.md R15). -/
theorem exec_cond_kept_or_oneFlag (i : Instr) (s t : State) (h : exec i s = .next t) :
    t.cond = s.cond ∨ s.config.oneFlag t.cond := by
  have hcond := flagsFollowDestinationRegisterOnly i s t h
  split at hcond
  · rw [hcond]
    exact .inr (signClass_oneFlag s.config _)
  · exact .inl hcond

/-- Settles O52, by the inversion of `exec`: outside the four control transfers no operation writes pc. -/
theorem onlyControlTransfersWritePc : Obligations.OnlyControlTransfersWritePc := by
  intro i s t h hi
  replace h := exec_next i s t h
  cases i with
  | br | jmp | jsr | jsrr => simp [writesPc] at hi
  | trapGetc | trapIn => obtain ⟨c, rest, -, rfl⟩ := h; simp
  | _ => cases h; simp

/-- Without a read of KBSR, only GETC and IN take input (10_state.md R21): any other instruction would leave every queue, so it
leaves the one that is pending. -/
theorem exec_input (i : Instr) (s t : State) (h : exec i s = .next t) (hgetc : i ≠ .trapGetc) (hin : i ≠ .trapIn)
    (hpoll : s.config.kbsrAddr ∉ readAddrs i s) : t.input = s.input := by
  have hsame : exec i s = withInput s.input (exec i s) := exec_withPending i s s.input hgetc hin hpoll
  rw [h, withInput_next] at hsame
  have ht : t = t.withPending s.input := Host.Outcome.next.inj hsame
  rw [ht]
  rfl

/-- Input is taken from the front only (10_state.md R21). -/
theorem exec_input_suffix (i : Instr) (s t : State) (h : exec i s = .next t) : t.input <:+ s.input := by
  have hnext := exec_next i s t h
  cases i with
  | trapGetc | trapIn => obtain ⟨c, rest, hinput, rfl⟩ := hnext; simp [hinput]
  | ld | ldr | sti => cases hnext; exact readEffect_input_suffix _ s
  | ldi => cases hnext; exact (readEffect_input_suffix _ _).trans (readEffect_input_suffix _ s)
  | _ => exact (exec_input _ s t h (by simp) (by simp) (by simp [readAddrs])).symm ▸ s.input.suffix_refl

/-- Only OUT, PUTS, IN and PUTSP make output (60_exceptions.md R160). -/
theorem exec_output (i : Instr) (s t : State) (h : exec i s = .next t) (hout : i ≠ .trapOut) (hputs : i ≠ .trapPuts)
    (hin : i ≠ .trapIn) (hputsp : i ≠ .trapPutsp) : t.output = s.output := by
  replace h := exec_next i s t h
  cases i with
  | trapOut => exact absurd rfl hout
  | trapPuts => exact absurd rfl hputs
  | trapIn => exact absurd rfl hin
  | trapPutsp => exact absurd rfl hputsp
  | br => cases h; split <;> rfl
  | trapGetc => obtain ⟨c, rest, -, rfl⟩ := h; simp
  | _ => cases h; simp

/-- The output log only grows (10_state.md R10). -/
theorem exec_output_prefix (i : Instr) (s t : State) (h : exec i s = .next t) : s.output <+: t.output := by
  have hnext := exec_next i s t h
  cases i with
  | trapOut => cases hnext; simp
  | trapPuts | trapPutsp => cases hnext; simp [emitString_output]
  | trapIn => obtain ⟨c, rest, -, rfl⟩ := hnext; simp
  | _ => exact (exec_output _ s t h (by simp) (by simp) (by simp) (by simp)).symm ▸ s.output.prefix_refl

/-- Settles O54: input because only KBSR, GETC and IN see the queue at all, output by the inversion of `exec`. -/
theorem consoleTouchedOnlyByItsUsers : Obligations.ConsoleTouchedOnlyByItsUsers :=
  fun i s t h => ⟨exec_input i s t h, exec_output i s t h⟩

end Sys2Proof.Machine
end

section
/-! What every step keeps. A step is the arrivals followed by a fetch and an instruction, by a hold, or by a boot event, so a
property that holds after the arrivals and that fetch, `exec` and boot keep holds of the next state. -/

namespace Sys2Proof.Machine

open Sys2Proof.Safety

/-- The case analysis of a step, packaged once: it is enough that each part of a step keeps the property. -/
theorem step_keeps (P : State → Prop) (hfetch : ∀ u, P u → P (fetch u).2)
    (hexec : ∀ i u v, P u → exec i u = .next v → P v) (hboot : ∀ u, P u → P (hostBoot u))
    (s t : State) (hdelivered : P (deliver s)) (h : step s = .next t) : P t := by
  rcases step_cases s t h with ⟨-, hrun⟩ | ⟨-, -, rfl⟩ | ⟨-, rfl⟩
  · exact hexec _ _ _ (hfetch _ hdelivered) hrun
  · exact hdelivered
  · exact hboot _ hdelivered

/-- A boot event leaves an idle machine idle, starts it, or is the fatal load failure (70_reset_and_hazards.md R171, R175). -/
theorem hostBoot_status (s : State) (h : s.status = .idle) :
    (hostBoot s).status = .idle ∨ (hostBoot s).status = .running ∨ (hostBoot s).status = .fatal .loadFailure := by
  rcases hostBoot_cases s with ⟨-, hboot⟩ | ⟨_, -, hboot⟩ | ⟨_, _, -, hboot⟩
  · rw [hboot]; exact .inr (.inl rfl)
  · rw [hboot]; exact .inr (.inr rfl)
  · rw [hboot]; exact .inl h

/-- Settles O41: a running machine moves as its instruction does or holds, an idle one as its boot event does. -/
theorem statusMovesOnlyAsListed : Obligations.StatusMovesOnlyAsListed := by
  intro s t h
  rcases step_cases s t h with ⟨hs, hrun⟩ | ⟨hs, -, rfl⟩ | ⟨hs, rfl⟩
  · exact .inr ⟨hs, exec_status _ _ t hrun (by simpa using hs)⟩
  · exact .inr ⟨hs, .inl (by simpa using hs)⟩
  · exact .inl ⟨hs, hostBoot_status _ (by simpa using hs)⟩

theorem exec_keeps_stateInv (i : Instr) (s t : State) (hs : StateInv s) (h : exec i s = .next t) : StateInv t := by
  obtain ⟨hconfig, hmem, hcond⟩ := hs
  rw [StateInv, exec_config i s t h]
  refine ⟨hconfig, exec_mem_wf i s t h hmem, ?_⟩
  rcases exec_cond_kept_or_oneFlag i s t h with hkept | hset
  · rwa [hkept]
  · exact .inr hset

theorem exec_keeps_oneFlag (i : Instr) (s t : State) (hs : oneFlag s) (h : exec i s = .next t) : oneFlag t := by
  rw [oneFlag, exec_config i s t h]
  rcases exec_cond_kept_or_oneFlag i s t h with hkept | hset
  · rwa [hkept]
  · exact hset

/-- Settles O48: the fetch, every instruction and every boot event keep the invariant. -/
theorem everyStepKeepsInvariant : Obligations.EveryStepKeepsInvariant := by
  intro s t hs h
  refine step_keeps StateInv ?_ exec_keeps_stateInv ?_ s t (by simpa [StateInv] using hs) h
  · rintro u ⟨hconfig, hmem, hcond⟩
    simp only [StateInv, fetch_snd_config, fetch_snd_mem, fetch_snd_cond]
    exact ⟨hconfig, readEffect_wf _ u hmem, hcond⟩
  · rintro u ⟨hconfig, hmem, hcond⟩
    simp only [StateInv, hostBoot_config, hostBoot_cond]
    exact ⟨hconfig, hostBoot_wf u hmem, hcond⟩

/-- Settles O49: an instruction that sets the flags sets exactly one, and nothing else in a step touches them. -/
theorem exactlyOneFlagIsKept : Obligations.ExactlyOneFlagIsKept := by
  intro s t hs h
  refine step_keeps oneFlag ?_ exec_keeps_oneFlag ?_ s t (by simpa [oneFlag] using hs) h
  · intro u hu
    simpa [oneFlag] using hu
  · intro u hu
    simpa [oneFlag] using hu

/-- Settles O57: no part of a step writes the parameters. -/
theorem parametersNeverChange : Obligations.ParametersNeverChange := by
  intro s t h
  refine step_keeps (fun u => u.config = s.config) ?_ ?_ ?_ s t (deliver_config s) h
  · intro u hu
    rw [fetch_snd_config, hu]
  · intro i u v hu hrun
    rw [exec_config i u v hrun, hu]
  · intro u hu
    rw [hostBoot_config, hu]

/-- The output begins with what an earlier log held, and the input is a suffix of an earlier queue. -/
def ConsoleForward (log queue : List Byte) (s : State) : Prop := log <+: s.output ∧ s.input <:+ queue

theorem fetch_keeps_consoleForward (log queue : List Byte) (s : State) (hs : ConsoleForward log queue s) :
    ConsoleForward log queue (fetch s).2 := by
  obtain ⟨hlog, hqueue⟩ := hs
  simp only [ConsoleForward, fetch_snd_output, fetch_snd_input]
  exact ⟨hlog, (readEffect_input_suffix s.pc s).trans hqueue⟩

theorem exec_keeps_consoleForward (log queue : List Byte) (i : Instr) (s t : State) (hs : ConsoleForward log queue s)
    (h : exec i s = .next t) : ConsoleForward log queue t := by
  obtain ⟨hlog, hqueue⟩ := hs
  exact ⟨hlog.trans (exec_output_prefix i s t h), (exec_input_suffix i s t h).trans hqueue⟩

theorem hostBoot_keeps_consoleForward (log queue : List Byte) (s : State) (hs : ConsoleForward log queue s) :
    ConsoleForward log queue (hostBoot s) := by
  simpa [ConsoleForward] using hs

/-- Settles O56: from the queue as the arrivals left it, every part of a step moves the console forward. -/
theorem consoleLogsMoveForwardOnly : Obligations.ConsoleLogsMoveForwardOnly := by
  intro s t h
  have hdelivered : ConsoleForward s.output (s.input ++ s.arrivals.headD []) (deliver s) := by
    simp [ConsoleForward, deliver_input]
  exact step_keeps _ (fetch_keeps_consoleForward _ _) (exec_keeps_consoleForward _ _) (hostBoot_keeps_consoleForward _ _)
    s t hdelivered h

end Sys2Proof.Machine
end

section
/-! The read path (20_memory.md R32): the poll a read of KBSR makes, in the words and the queue it leaves. A read of any other
address is `memRead_of_ne`. -/

namespace Sys2Proof.Machine

open Sys2Proof.Safety

theorem zext_toNat (b : Byte) : (zext b).toNat = b.toNat := BitVec.toNat_setWidth_of_le (by decide)

theorem memRead_kbsr (s : State) :
    memRead s.config.kbsrAddr s = ((pollKeyboard s).mem.read s.config.kbsrAddr, pollKeyboard s) := by
  rw [memRead, readEffect_kbsr]

/-- A poll writes memory and the queue, nothing else. -/
theorem pollKeyboard_frame (s : State) : { pollKeyboard s with mem := s.mem, input := s.input } = s := by
  cases h : s.input with
  | nil => rw [pollKeyboard_empty s h, ← h]; rfl
  | cons c rest => rw [pollKeyboard_ready s c rest h, ← h]; rfl

theorem pollKeyboard_mem_empty (s : State) (h : s.input = []) : (pollKeyboard s).mem = s.mem.write s.config.kbsrAddr 0 := by
  rw [pollKeyboard_empty s h, storeWord_mem]

theorem pollKeyboard_mem_ready (s : State) (c : Byte) (rest : List Byte) (h : s.input = c :: rest) :
    (pollKeyboard s).mem = (s.mem.write s.config.kbsrAddr (readyStatus s)).write s.config.kbdrAddr (zext c) := by
  rw [pollKeyboard_ready s c rest h, storeWord_mem, storeWord_mem]

/-- KBDR is written after KBSR; on a machine that keeps the two words apart, KBSR still holds the ready status (log 26). -/
theorem pollKeyboard_read_kbsr_ready (s : State) (c : Byte) (rest : List Byte) (h : s.input = c :: rest)
    (hapart : s.config.kbsrAddr ≠ s.config.kbdrAddr) : (pollKeyboard s).mem.read s.config.kbsrAddr = readyStatus s := by
  rw [pollKeyboard_mem_ready s c rest h, Memory.read_write_other _ _ _ _ hapart, Memory.read_write_same]

theorem pollKeyboard_read_kbdr_ready (s : State) (c : Byte) (rest : List Byte) (h : s.input = c :: rest) :
    (pollKeyboard s).mem.read s.config.kbdrAddr = zext c := by
  rw [pollKeyboard_mem_ready s c rest h, Memory.read_write_same]

theorem pollKeyboard_read_kbsr_empty (s : State) (h : s.input = []) : (pollKeyboard s).mem.read s.config.kbsrAddr = 0 := by
  rw [pollKeyboard_mem_empty s h, Memory.read_write_same]

theorem pollKeyboard_wordsKept (s : State) : WordsKeptBut [s.config.kbsrAddr, s.config.kbdrAddr] s (pollKeyboard s) := by
  intro a ha
  simp only [List.mem_cons, List.not_mem_nil, or_false, not_or] at ha
  obtain ⟨hkbsr, hkbdr⟩ := ha
  exact pollKeyboard_read_other s a hkbsr hkbdr

/-- With nothing pending KBDR stays too. -/
theorem pollKeyboard_wordsKept_empty (s : State) (h : s.input = []) : WordsKeptBut [s.config.kbsrAddr] s (pollKeyboard s) := by
  intro a ha
  rw [pollKeyboard_mem_empty s h, Memory.read_write_other _ _ _ _ (List.ne_of_not_mem_cons ha)]

/-- Settles O9: at KBSR the read path is the poll, with a byte pending or with none; anywhere else it is a plain read. -/
theorem readPathPollsAtKeyboardStatusOnly : Obligations.ReadPathPollsAtKeyboardStatusOnly := by
  intro s
  dsimp only
  rw [memRead_kbsr]
  refine ⟨fun c rest hconfig h => ?ready, fun h => ?empty, pollKeyboard_frame s, fun a ha => memRead_of_ne a s ha⟩
  case ready =>
    obtain ⟨-, -, -, -, -, hapart, -⟩ := hconfig
    have hkbdr := congrArg BitVec.toNat (pollKeyboard_read_kbdr_ready s c rest h)
    exact ⟨pollKeyboard_read_kbsr_ready s c rest h hapart, rfl, hkbdr.trans (zext_toNat c), pollKeyboard_wordsKept s,
      by rw [pollKeyboard_input, h, List.tail_cons]⟩
  case empty =>
    have hkbsr := pollKeyboard_read_kbsr_empty s h
    exact ⟨hkbsr, hkbsr, pollKeyboard_wordsKept_empty s h, by rw [pollKeyboard_input, h, List.tail_nil]⟩

end Sys2Proof.Machine
end

section
/-! Stores: the fetch sees them (20_memory.md R42), and with the polls of KBSR they are all that changes memory (R34, R44). -/

namespace Sys2Proof.Machine

open Sys2Proof.Safety

/-- A fetch from any address but KBSR gives the stored word (20_memory.md R32). -/
theorem fetch_fst_of_ne (s : State) (h : s.pc ≠ s.config.kbsrAddr) : (fetch s).1 = s.mem.read s.pc := by
  rw [fetch_eq, readEffect_of_ne s.pc s h]

/-- Settles O42: ST writes the one memory the fetch reads. -/
theorem nextFetchSeesStoredWord : Obligations.NextFetchSeesStoredWord := by
  intro sr off9 s h
  refine ⟨memWrite (pcRelative off9 s) (s.reg sr) s, rfl, ?_⟩
  rw [fetch_fst_of_ne _ h]
  exact Memory.read_write_same s.mem (s.pc + sext off9) (s.reg sr)

/-- One of an instruction's reads keeps every word that is no keyboard word, and each keyboard word too where none of the reads
is of KBSR. -/
theorem readEffect_read_of_mem (reads : List Word) (a b : Word) (s : State) (ha : a ∈ reads)
    (hpoll : s.config.kbsrAddr ∈ reads → b ≠ s.config.kbsrAddr ∧ b ≠ s.config.kbdrAddr) :
    (readEffect a s).mem.read b = s.mem.read b :=
  readEffect_read_other a b s fun hkbsr => hpoll (hkbsr ▸ ha)

/-- Settles O53, by the inversion of `exec`: the stores write one word, the reads at most the keyboard words, and no other
operation touches memory. -/
theorem memoryChangesOnlyAtStoresAndPolls : Obligations.MemoryChangesOnlyAtStoresAndPolls := by
  intro i s t h a hstore hpoll
  replace h := exec_next i s t h
  cases i with
  | st | str =>
    cases h
    exact Memory.read_write_other s.mem _ _ a fun ha => hstore (congrArg some ha.symm)
  | sti =>
    cases h
    calc
      _ = (readEffect _ s).mem.read a := Memory.read_write_other _ _ _ a fun ha => hstore (congrArg some ha.symm)
      _ = s.mem.read a := readEffect_read_of_mem _ _ a s List.mem_cons_self hpoll
  | ld | ldr => cases h; exact readEffect_read_of_mem _ _ a s List.mem_cons_self hpoll
  | ldi dr off9 =>
    cases h
    have hpointer : (readEffect (pcRelative off9 s) s).mem.read a = s.mem.read a :=
      readEffect_read_of_mem _ _ a s List.mem_cons_self hpoll
    rw [loadInto_mem, memRead_snd, ← hpointer]
    exact readEffect_read_of_mem _ _ a _ (List.mem_cons_of_mem _ List.mem_cons_self) (by rwa [readEffect_config])
  | br => cases h; split <;> rfl
  | trapGetc | trapIn => obtain ⟨c, rest, -, rfl⟩ := h; simp
  | _ => cases h; simp

end Sys2Proof.Machine
end

section
/-! Decoding by fields (30_encoding.md R51 to R60): a word carries an instruction when it has the instruction's operation number
and every field of its form, whatever its other bits (R62). A word that carries an instruction decodes to it, so what is left to
say of a word, encoded or written out row by row, is what its fields read. -/

namespace Sys2Proof

/-- The fields of an instruction's form, mode bit and vector included, stand in a word. -/
def Instr.FieldsIn (c : Config) (w : Word) : Instr → Prop
  | .br r off9 | .ld r off9 | .st r off9 | .ldi r off9 | .sti r off9 | .lea r off9 =>
    fieldDr c.layout w = r ∧ offset9 c.layout w = off9
  | .add dr sr1 sr2 | .and dr sr1 sr2 =>
    fieldDr c.layout w = dr ∧ fieldSr1 c.layout w = sr1 ∧ fieldImode c.layout w = 0 ∧ fieldSr2 c.layout w = sr2
  | .addImm dr sr1 imm5 | .andImm dr sr1 imm5 =>
    fieldDr c.layout w = dr ∧ fieldSr1 c.layout w = sr1 ∧ fieldImode c.layout w = 1 ∧ fieldImm5 c.layout w = imm5
  | .ldr r baseR off6 | .str r baseR off6 =>
    fieldDr c.layout w = r ∧ fieldSr1 c.layout w = baseR ∧ offset6 c.layout w = off6
  | .not dr sr1 => fieldDr c.layout w = dr ∧ fieldSr1 c.layout w = sr1
  | .jmp baseR => fieldSr1 c.layout w = baseR
  | .jsr off11 => fieldJmode c.layout w = 1 ∧ offset11 c.layout w = off11
  | .jsrr baseR => fieldJmode c.layout w = 0 ∧ fieldSr1 c.layout w = baseR
  | .rti | .res => True
  | .trapGetc => fieldVect8 w = c.vectors.getc
  | .trapOut => fieldVect8 w = c.vectors.out
  | .trapPuts => fieldVect8 w = c.vectors.puts
  | .trapIn => fieldVect8 w = c.vectors.input
  | .trapPutsp => fieldVect8 w = c.vectors.putsp
  | .trapHalt => fieldVect8 w = c.vectors.halt
  | .trapInvalid vect8 => fieldVect8 w = vect8

/-- A word carries an instruction: its operation number and its fields. -/
def Instr.CarriedBy (c : Config) (w : Word) (i : Instr) : Prop :=
  fieldOpcode w = i.opcode c.opcodes ∧ i.FieldsIn c w

theorem Instr.wf_trapInvalid (c : Config) (vect8 : Byte) :
    (Instr.trapInvalid vect8).wf c = true ↔ vect8 ∉ c.vectors.all := by
  simp [Instr.wf]

/-- The operation number selects an instruction's form, and the fields then fill it (R74, R75). -/
theorem decodeOperation_of_fieldsIn (c : Config) (hop : c.opcodes.wf) (hvec : c.vectors.wf) (i : Instr) (hi : i.wf c = true)
    (w : Word) (hf : i.FieldsIn c w) : decodeOperation c (i.opcode c.opcodes) w = i := by
  obtain ⟨hgetc, hout, hputs, hin, hputsp, hhalt⟩ := decodeTrap_defined c.vectors hvec
  cases i with
  | br => obtain ⟨rfl, rfl⟩ := hf; exact decodeOperation_br c w
  | ld => obtain ⟨rfl, rfl⟩ := hf; exact decodeOperation_ld c hop w
  | st => obtain ⟨rfl, rfl⟩ := hf; exact decodeOperation_st c hop w
  | ldi => obtain ⟨rfl, rfl⟩ := hf; exact decodeOperation_ldi c hop w
  | sti => obtain ⟨rfl, rfl⟩ := hf; exact decodeOperation_sti c hop w
  | lea => obtain ⟨rfl, rfl⟩ := hf; exact decodeOperation_lea c hop w
  | ldr => obtain ⟨rfl, rfl, rfl⟩ := hf; exact decodeOperation_ldr c hop w
  | str => obtain ⟨rfl, rfl, rfl⟩ := hf; exact decodeOperation_str c hop w
  | not => obtain ⟨rfl, rfl⟩ := hf; exact decodeOperation_not c hop w
  | jmp => cases hf; exact decodeOperation_jmp c hop w
  | rti => exact decodeOperation_rti c hop w
  | res => exact decodeOperation_res c hop w
  | add => obtain ⟨rfl, rfl, hm, rfl⟩ := hf; exact (decodeOperation_add c hop w).trans (if_neg (by simp [hm]))
  | and => obtain ⟨rfl, rfl, hm, rfl⟩ := hf; exact (decodeOperation_and c hop w).trans (if_neg (by simp [hm]))
  | addImm => obtain ⟨rfl, rfl, hm, rfl⟩ := hf; exact (decodeOperation_add c hop w).trans (if_pos hm)
  | andImm => obtain ⟨rfl, rfl, hm, rfl⟩ := hf; exact (decodeOperation_and c hop w).trans (if_pos hm)
  | jsr => obtain ⟨hm, rfl⟩ := hf; exact (decodeOperation_jsr c hop w).trans (if_pos hm)
  | jsrr => obtain ⟨hm, rfl⟩ := hf; exact (decodeOperation_jsr c hop w).trans (if_neg (by simp [hm]))
  | trapGetc => exact (decodeOperation_trap c hop w).trans (hf ▸ hgetc)
  | trapOut => exact (decodeOperation_trap c hop w).trans (hf ▸ hout)
  | trapPuts => exact (decodeOperation_trap c hop w).trans (hf ▸ hputs)
  | trapIn => exact (decodeOperation_trap c hop w).trans (hf ▸ hin)
  | trapPutsp => exact (decodeOperation_trap c hop w).trans (hf ▸ hputsp)
  | trapHalt => exact (decodeOperation_trap c hop w).trans (hf ▸ hhalt)
  | trapInvalid v =>
    cases hf
    exact (decodeOperation_trap c hop w).trans (decodeTrap_undefined _ _ ((Instr.wf_trapInvalid c _).1 hi))

/-- The bits outside the opcode and the fields of the form play no part in decoding (R62). -/
theorem decode_of_carriedBy (c : Config) (hop : c.opcodes.wf) (hvec : c.vectors.wf) (i : Instr) (hi : i.wf c = true)
    (w : Word) (h : i.CarriedBy c w) : decode c w = i := by
  obtain ⟨hopcode, hfields⟩ := h
  rw [decode, hopcode]
  exact decodeOperation_of_fieldsIn c hop hvec i hi w hfields

/-! A field put into the operand word is read back from under every field put after it, the word's own opcode last. The side
conditions are clauses of `Layout.wf`, taken from the context. -/

theorem field_putField {n : Nat} {lo : Nat} {f : BitVec n} {w : Word} (h : lo + n ≤ 12 := by assumption) :
    (putField lo f w).extractLsb' lo n = f :=
  extract_putField lo f w (by omega)

theorem field_putField_apart {n m : Nat} {lo lo' : Nat} {f : BitVec n} {g : BitVec m} {w : Word}
    (hg : w.extractLsb' lo' m = g) (hapart : Layout.apart lo n lo' m := by assumption) (h : lo' + m ≤ 12 := by assumption) :
    (putField lo f w).extractLsb' lo' m = g :=
  (extract_putField_apart lo lo' f w hapart (by omega)).trans hg

theorem field_encode {m : Nat} {c : Config} {i : Instr} {lo : Nat} {f : BitVec m}
    (hf : (i.operandWord c).extractLsb' lo m = f) (h : lo + m ≤ 12 := by assumption) : (encode c i).extractLsb' lo m = f :=
  (encode_field c i lo m h).trans hf

/-- The encoder puts every field of a form where the decoder looks for it: the fields of one form being apart, none overwrites
another (R51). -/
theorem encode_fieldsIn (c : Config) (hl : c.layout.wf) (i : Instr) : i.FieldsIn c (encode c i) := by
  obtain ⟨⟨_, _, _, _, _, _, _, _, _⟩, ⟨_, _, _, _, _, _⟩, ⟨_, _, _, _⟩, _, _, _, _⟩ := hl
  cases i with
  | br | ld | st | ldi | sti | lea => exact ⟨field_encode field_putField, field_encode (field_putField_apart field_putField)⟩
  | add | and | addImm | andImm =>
    exact ⟨field_encode field_putField, field_encode (field_putField_apart field_putField),
      field_encode (field_putField_apart (field_putField_apart field_putField)),
      field_encode (field_putField_apart (field_putField_apart (field_putField_apart field_putField)))⟩
  | ldr | str =>
    exact ⟨field_encode field_putField, field_encode (field_putField_apart field_putField),
      field_encode (field_putField_apart (field_putField_apart field_putField))⟩
  | not | jsr | jsrr => exact ⟨field_encode field_putField, field_encode (field_putField_apart field_putField)⟩
  | jmp => exact field_encode field_putField
  | rti | res => trivial
  | _ => exact field_encode (field_putField (by decide)) (by decide)

/-- Settles O1: an encoded instruction carries itself, its operation number and its fields, and so decodes to itself. -/
theorem decodeUndoesEncode : Obligations.DecodeUndoesEncode := by
  intro config i hwf hi
  obtain ⟨hop, hlayout, hvec, -⟩ := hwf
  exact decode_of_carriedBy config hop hvec i hi _ ⟨encode_opcode config i, encode_fieldsIn config hlayout i⟩

/-- TRAP's arm answers `trapInvalid` only for a vector that names no routine (R64, R137). -/
theorem decodeTrap_wf (c : Config) (vect8 : Byte) : (decodeTrap c.vectors vect8).wf c = true := by
  unfold decodeTrap
  split_ifs with hgetc hout hputs hin hputsp hhalt
  case neg => simp [Instr.wf_trapInvalid, Vectors.all, hgetc, hout, hputs, hin, hputsp, hhalt]
  all_goals rfl

/-- Settles O2: well-formedness is asked arm by arm of the decoder, and only TRAP's arm can answer an instruction that the table
might have no word for. -/
theorem everyWordDecodesWellFormed : Obligations.EveryWordDecodesWellFormed := by
  intro config w
  simp only [decode, decodeOperation, apply_ite (Instr.wf config), decodeTrap_wf]
  simp only [Instr.wf, ite_self]

end Sys2Proof
end

section
/-! The rows of R52 at the standard parameters: what the fields of a word read when it is written out as its row, whatever its
undecoded bits (R62). Each row then carries its instruction. -/

namespace Sys2Proof

theorem decode_standard_of_carriedBy {i : Instr} {w : Word} (hi : i.wf Config.standard = true)
    (h : i.CarriedBy Config.standard w) : decode Config.standard w = i :=
  decode_of_carriedBy Config.standard (by decide) (by decide) i hi w h

/-- DR and off9, the row of R53 and R56. -/
theorem offset9Row_fields {op : BitVec 4} {r : Reg} {off9 : BitVec 9} {w : Word} (hw : w = op ++ r ++ off9) :
    fieldOpcode w = op ∧ fieldDr Layout.standard w = r ∧ offset9 Layout.standard w = off9 := by
  subst hw
  simp (disch := decide) only [fieldOpcode, fieldDr, offset9, Layout.standard, extract_append_high, extract_append_low,
    extract_all, Nat.reduceSub, and_self]

/-- Two registers, a mode bit, two undecoded bits and a third register, the row of R54. -/
theorem registerRow_fields {op : BitVec 4} {r1 r2 r3 : Reg} {mode : BitVec 1} {x2 : BitVec 2} {w : Word}
    (hw : w = op ++ r1 ++ r2 ++ mode ++ x2 ++ r3) :
    fieldOpcode w = op ∧ fieldDr Layout.standard w = r1 ∧ fieldSr1 Layout.standard w = r2 ∧
      fieldImode Layout.standard w = mode ∧ fieldSr2 Layout.standard w = r3 := by
  subst hw
  simp (disch := decide) only [fieldOpcode, fieldDr, fieldSr1, fieldImode, fieldSr2, Layout.standard, extract_append_high,
    extract_append_low, extract_all, Nat.reduceSub, and_self]

/-- Two registers, a mode bit and imm5, the row of R55. -/
theorem immediateRow_fields {op : BitVec 4} {r1 r2 : Reg} {mode : BitVec 1} {imm5 : BitVec 5} {w : Word}
    (hw : w = op ++ r1 ++ r2 ++ mode ++ imm5) :
    fieldOpcode w = op ∧ fieldDr Layout.standard w = r1 ∧ fieldSr1 Layout.standard w = r2 ∧
      fieldImode Layout.standard w = mode ∧ fieldImm5 Layout.standard w = imm5 := by
  subst hw
  simp (disch := decide) only [fieldOpcode, fieldDr, fieldSr1, fieldImode, fieldImm5, Layout.standard, extract_append_high,
    extract_append_low, extract_all, Nat.reduceSub, and_self]

/-- Two registers and off6, the row of R57, and of R58 with bits undecoded. -/
theorem offset6Row_fields {op : BitVec 4} {r1 r2 : Reg} {off6 : BitVec 6} {w : Word} (hw : w = op ++ r1 ++ r2 ++ off6) :
    fieldOpcode w = op ∧ fieldDr Layout.standard w = r1 ∧ fieldSr1 Layout.standard w = r2 ∧
      offset6 Layout.standard w = off6 := by
  subst hw
  simp (disch := decide) only [fieldOpcode, fieldDr, fieldSr1, offset6, Layout.standard, extract_append_high,
    extract_append_low, extract_all, Nat.reduceSub, and_self]

/-- A mode bit and off11, the row of JSR (R59). -/
theorem jsrRow_fields {op : BitVec 4} {mode : BitVec 1} {off11 : BitVec 11} {w : Word} (hw : w = op ++ mode ++ off11) :
    fieldOpcode w = op ∧ fieldJmode Layout.standard w = mode ∧ offset11 Layout.standard w = off11 := by
  subst hw
  simp (disch := decide) only [fieldOpcode, fieldJmode, offset11, Layout.standard, extract_append_high, extract_append_low,
    extract_all, Nat.reduceSub, and_self]

/-- A mode bit and a base register, the row of JSRR (R59). -/
theorem jsrrRow_fields {op : BitVec 4} {mode : BitVec 1} {x2 : BitVec 2} {r : Reg} {x6 : BitVec 6} {w : Word}
    (hw : w = op ++ mode ++ x2 ++ r ++ x6) :
    fieldOpcode w = op ∧ fieldJmode Layout.standard w = mode ∧ fieldSr1 Layout.standard w = r := by
  subst hw
  simp (disch := decide) only [fieldOpcode, fieldJmode, fieldSr1, Layout.standard, extract_append_high, extract_append_low,
    extract_all, Nat.reduceSub, and_self]

/-- No field but the opcode, the row of RTI and RESERVED (R60). -/
theorem bareRow_opcode {op : BitVec 4} {x12 : BitVec 12} {w : Word} (hw : w = op ++ x12) : fieldOpcode w = op := by
  subst hw
  exact (extract_append_high op x12 12 4 (by decide)).trans (extract_all op)

/-- The vector in the low byte, the row of TRAP (R60). -/
theorem trapRow_fields {op x4 : BitVec 4} {vect8 : Byte} {w : Word} (hw : w = op ++ x4 ++ vect8) :
    fieldOpcode w = op ∧ fieldVect8 w = vect8 := by
  subst hw
  simp (disch := decide) only [fieldOpcode, fieldVect8, extract_append_high, extract_append_low, extract_all, Nat.reduceSub,
    and_self]

/-- The three mask bits of BR, written one by one, are its field nzp (R53). -/
theorem append_mask (op : BitVec 4) (n z p : BitVec 1) : op ++ n ++ z ++ p = op ++ (n ++ z ++ p) := by
  rw [BitVec.append_assoc, BitVec.append_assoc, BitVec.append_assoc (x₁ := n)]
  rfl

/-- The vectors below and above the six of R130 name no routine (R137). -/
theorem standard_vectors_bounds (v : Byte) (h : v.toNat < 0x20 ∨ 0x25 < v.toNat) : v ∉ Config.standard.vectors.all := by
  intro hv
  have hrange : ∀ u ∈ Config.standard.vectors.all, 0x20 ≤ u.toNat ∧ u.toNat ≤ 0x25 := by decide
  have := hrange v hv
  omega

/-- Settles O3: each row carries its instruction. -/
theorem operateAndMemoryRowsDecode : Obligations.OperateAndMemoryRowsDecode := by
  intro r1 r2 r3 imm5 off6 off9 x2 x6
  refine ⟨?add, ?addImm, ?and, ?andImm, ?not, ?ld, ?ldi, ?ldr, ?lea, ?st, ?sti, ?str⟩
  case add | and => exact decode_standard_of_carriedBy rfl (registerRow_fields rfl)
  case addImm | andImm => exact decode_standard_of_carriedBy rfl (immediateRow_fields rfl)
  case ldr | str => exact decode_standard_of_carriedBy rfl (offset6Row_fields rfl)
  case ld | ldi | lea | st | sti => exact decode_standard_of_carriedBy rfl (offset9Row_fields rfl)
  case not =>
    obtain ⟨hop, hdr, hsr1, -⟩ := offset6Row_fields (rfl : 0b1001#4 ++ r1 ++ r2 ++ x6 = _)
    exact decode_standard_of_carriedBy rfl ⟨hop, hdr, hsr1⟩

/-- Settles O4: each row carries its instruction, and a vector outside those of R130 is one that names no routine. -/
theorem controlAndTrapRowsDecode : Obligations.ControlAndTrapRowsDecode := by
  intro n z p r off9 off11 x2 x3 x4 x6 x12 v
  refine ⟨?br, ?jmp, ?jsr, ?jsrr, ?rti, ?res, ?getc, ?out, ?puts, ?input, ?putsp, ?halt, ?invalid⟩
  case br => exact decode_standard_of_carriedBy rfl (offset9Row_fields (congrArg (· ++ off9) (append_mask 0 n z p)))
  case jmp =>
    obtain ⟨hop, -, hsr1, -⟩ := offset6Row_fields (rfl : 0b1100#4 ++ x3 ++ r ++ x6 = _)
    exact decode_standard_of_carriedBy rfl ⟨hop, hsr1⟩
  case jsr => exact decode_standard_of_carriedBy rfl (jsrRow_fields rfl)
  case jsrr => exact decode_standard_of_carriedBy rfl (jsrrRow_fields rfl)
  case rti | res => exact decode_standard_of_carriedBy rfl ⟨bareRow_opcode rfl, trivial⟩
  case getc | out | puts | input | putsp | halt => exact decode_standard_of_carriedBy rfl (trapRow_fields rfl)
  case invalid =>
    intro hv
    have hundefined : (Instr.trapInvalid v).wf Config.standard = true :=
      (Instr.wf_trapInvalid Config.standard v).2 (standard_vectors_bounds v hv)
    exact decode_standard_of_carriedBy hundefined (trapRow_fields rfl)

end Sys2Proof
end

section
/-! Operands and flags (40_step_and_decode.md R72, R73): the top bit of a field or a word decides. -/

namespace Sys2Proof.Machine

/-- A field whose top bit is 0 keeps its value where it fits into a word. -/
theorem sext_toNat_of_msb_false {n : Nat} (f : BitVec n) (hn : n ≤ 16) (h : f.msb = false) : (sext f).toNat = f.toNat := by
  rw [sext, BitVec.signExtend_eq_setWidth_of_msb_false h, BitVec.toNat_setWidth_of_le hn]

/-- A field whose top bit is 1 gets every bit above it set: below `n` the shifted ones are zero, from `n` on the field is. -/
theorem sext_eq_or_of_msb_true {n : Nat} (f : BitVec n) (h : f.msb = true) :
    sext f = f.setWidth 16 ||| ((0xFFFF : Word) <<< n) := by
  have hones (j : Nat) (hj : j < 16) : (0xFFFF#16)[j] = true := BitVec.getElem_allOnes j hj
  ext i hi
  rw [sext, BitVec.getElem_signExtend]
  by_cases hfield : i < n
  · simp [hfield]
  · simp [hfield, h, hones]

/-- Settles O6: the top bit is copied into every bit above the field. -/
theorem signExtensionCopiesTopBit : Obligations.SignExtensionCopiesTopBit := by
  intro n f _ hn
  rw [← BitVec.msb_eq_getLsbD_last]
  exact ⟨sext_toNat_of_msb_false f (by omega), sext_eq_or_of_msb_true f⟩

/-- Settles O7: `setcc` writes the flag of the sign class, and bit 15 is the top bit of a word. -/
theorem setccSetsExactlyTheSignClass : Obligations.SetccSetsExactlyTheSignClass := by
  intro v s
  rw [setcc_cond, show v.getLsbD 15 = v.msb from (BitVec.msb_eq_getLsbD_last v).symm]
  refine ⟨fun hzero => if_pos hzero, fun hv hneg => ?negative, fun hv hpos => ?positive, ?oneFlag, rfl⟩
  case negative => rw [flagsOf, if_neg hv, if_pos hneg]
  case positive => rw [flagsOf, if_neg hv, if_neg (by simp [hpos])]
  case oneFlag =>
    rw [flagsOf_eq_signClass]
    exact signClass_oneFlag s.config v

end Sys2Proof.Machine
end

section
/-! The step (40_step_and_decode.md R70, R71, R77, R78): the three fetches there are, what a hold passes and what it replaces,
and the wait of the two blocking reads. -/

namespace Sys2Proof.Machine

open Sys2Proof.Safety

/-! ### The fetch: plain, or a poll with nothing pending, or a poll with a byte pending -/

theorem fetch_of_ne (s : State) (h : s.pc ≠ s.config.kbsrAddr) :
    fetch s = (s.mem.read s.pc, { s with pc := s.pc + 1 }) := by
  rw [fetch_eq, readEffect_of_ne s.pc s h]

theorem fetch_kbsr_empty (s : State) (hpc : s.pc = s.config.kbsrAddr) (h : s.input = []) :
    fetch s = (0, { s with mem := s.mem.write s.pc 0, pc := s.pc + 1 }) := by
  rw [fetch_eq, hpc, readEffect_kbsr, pollKeyboard_read_kbsr_empty s h, pollKeyboard_empty s h]
  rfl

theorem fetch_kbsr_ready (s : State) (c : Byte) (rest : List Byte) (hpc : s.pc = s.config.kbsrAddr)
    (h : s.input = c :: rest) (hapart : s.config.kbsrAddr ≠ s.config.kbdrAddr) :
    fetch s =
      (readyStatus s,
        { s with
            mem := (s.mem.write s.pc (readyStatus s)).write s.config.kbdrAddr (zext c), input := rest, pc := s.pc + 1 }) := by
  rw [fetch_eq, hpc, readEffect_kbsr, pollKeyboard_read_kbsr_ready s c rest h hapart, pollKeyboard_ready s c rest h]
  rfl

/-! ### The hold -/

theorem orHold_inputHold (before : State) : orHold before (.fault .inputHold) = .next before := rfl

theorem orHold_of_ne (before : State) (r : Result) (h : r ≠ .fault .inputHold) : orHold before r = r := by
  unfold orHold
  split
  · exact absurd rfl h
  · rfl

/-- A step of a running machine, given the word its fetch finds and the state the fetch leaves: the instruction of that word
runs, or the machine is held. -/
theorem step_of_fetch (s u : State) (w : Word) (hs : s.status = .running) (hfetch : fetch (deliver s) = (w, u)) :
    (exec (decode s.config w) u ≠ .fault .inputHold → step s = exec (decode s.config w) u) ∧
      (exec (decode s.config w) u = .fault .inputHold → step s = .next (deliver s)) := by
  rw [step_running s hs, hfetch]
  exact ⟨orHold_of_ne _ _, fun hhold => by rw [hhold, orHold_inputHold]⟩

/-- Settles O36: away from KBSR the fetch is plain. -/
theorem stepRunsDecodedInstruction : Obligations.StepRunsDecodedInstruction := by
  rintro s _ hs hpc rfl
  have hfetch : fetch (deliver s) = (s.mem.read s.pc, { deliver s with pc := s.pc + 1 }) := by
    simpa using fetch_of_ne (deliver s) (by simpa using hpc)
  exact step_of_fetch s _ _ hs hfetch

/-- Settles O40: the machine's cycle answers the named stop. -/
theorem endedRunTakesNoStep : Obligations.EndedRunTakesNoStep := by
  intro s
  refine ⟨fun hs => ?_, fun cause hs => ?_⟩
  · rw [step, cycle, deliver_status, hs]
  · rw [step, cycle, deliver_status, hs]

/-! ### The poll of a fetch from KBSR -/

/-- Where BR has number 0 the word 0x0000 is BR with mask 000 (R53). -/
theorem decode_zero_of_br_zero (c : Config) (h : c.opcodes.br = 0) : decode c 0 = .br 0 0 := by
  simp [decode, decodeOperation, fieldOpcode, fieldDr, offset9, h]

/-- Mask 000 never branches (43_control.md R120). -/
theorem exec_br_zero_mask (off9 : BitVec 9) (s : State) : exec (.br 0 off9) s = .next s := by
  simp [exec, execBr, flagsMeet]

/-- Settles O37: the fetch is the poll, with nothing pending or with a byte pending. -/
theorem fetchFromKeyboardStatusPolls : Obligations.FetchFromKeyboardStatusPolls := by
  rintro s ⟨-, -, -, -, -, hapart, -⟩ hs hpc
  have hempty : (deliver s).input = [] →
      fetch (deliver s) = (0, { deliver s with mem := s.mem.write s.pc 0, pc := s.pc + 1 }) := by
    intro h
    simpa using fetch_kbsr_empty (deliver s) (by simpa using hpc) h
  refine ⟨fun h => step_of_fetch s _ 0 hs (hempty h), fun h hbr => ?neverTaken, fun c rest h => ?ready⟩
  case neverTaken =>
    have hrun := (step_of_fetch s _ 0 hs (hempty h)).1
    rw [decode_zero_of_br_zero s.config hbr, exec_br_zero_mask] at hrun
    refine ⟨_, hrun (by simp), rfl, Memory.read_write_same s.mem s.pc 0, fun a ha => ?_, fun r _ => deliver_reg s r, ?_⟩
    · exact Memory.read_write_other s.mem s.pc 0 a (List.ne_of_not_mem_cons ha)
    · simp [hs, h]
  case ready =>
    refine step_of_fetch s _ _ hs ?_
    rw [fetch_kbsr_ready (deliver s) c rest (by simpa using hpc) h (by simpa using hapart)]
    simp [readyStatus, zext, hpc]

/-! ### The blocking reads -/

theorem exec_trapGetc_empty (s : State) (h : s.input = []) : exec .trapGetc s = .fault .inputHold := by
  simp [exec, execTrapGetc, h]

theorem exec_trapIn_empty (s : State) (h : s.input = []) : exec .trapIn s = .fault .inputHold := by
  simp [exec, execTrapIn, h]

theorem exec_trapGetc_ready (s : State) (c : Byte) (rest : List Byte) (h : s.input = c :: rest) :
    exec .trapGetc s = .next ({ trapEntry s with input := rest }.setReg 0 (zext c)) := by
  simp [exec, execTrapGetc, h]

theorem exec_trapIn_ready (s : State) (c : Byte) (rest : List Byte) (h : s.input = c :: rest) :
    exec .trapIn s =
      .next ((consoleOut (s.config.inPrompt ++ [c]) { trapEntry s with input := rest }).setReg 0 (zext c)) := by
  simp [exec, execTrapIn, h]

/-- Settles O38: the two blocking reads split on the queue; every other meaning is written as a next state. -/
theorem onlyBlockingReadsWait : Obligations.OnlyBlockingReadsWait := by
  refine fun i s => ⟨?waits, fun h => ?completes⟩
  case waits =>
    rintro ⟨rfl | rfl, hinput⟩
    · exact exec_trapGetc_empty s hinput
    · exact exec_trapIn_empty s hinput
  case completes =>
    cases i with
    | trapGetc =>
      obtain ⟨c, rest, hinput⟩ := List.exists_cons_of_ne_nil (l := s.input) (by simpa using h)
      exact ⟨_, exec_trapGetc_ready s c rest hinput⟩
    | trapIn =>
      obtain ⟨c, rest, hinput⟩ := List.exists_cons_of_ne_nil (l := s.input) (by simpa using h)
      exact ⟨_, exec_trapIn_ready s c rest hinput⟩
    | _ => exact ⟨_, rfl⟩

/-- Settles O39: with an empty queue GETC waits and the machine is held; with the byte that arrived it completes. -/
theorem heldGetcResumesWhenInputArrives : Obligations.HeldGetcResumesWhenInputArrives := by
  intro s c bytes hs hpc hdecode hinput
  have hstep (script : List (List Byte)) :=
    stepRunsDecodedInstruction { s with arrivals := script } .trapGetc hs hpc hdecode
  constructor
  · have hheld := (hstep []).2
    rw [deliver_of_nil _ rfl] at hheld
    exact hheld (exec_trapGetc_empty _ hinput)
  · have hruns := (hstep [c :: bytes]).1
    rw [exec_trapGetc_ready _ c bytes (by simp [deliver_input, hinput])] at hruns
    refine ⟨_, hruns (by simp), ?_, rfl, by simp⟩
    rw [State.reg_setReg, if_pos rfl, zext_toNat]

end Sys2Proof.Machine
end

section
/-! The register frame (40_step_and_decode.md R76). -/

namespace Sys2Proof.Machine

open Sys2Proof.Safety

theorem setReg_regsKeptBut (s : State) (r : Reg) (v : Word) : RegsKeptBut [r] s (s.setReg r v) := by
  intro q hq
  rw [State.reg_setReg, if_neg (List.ne_of_not_mem_cons hq)]

theorem writeDest_regsKeptBut (dr : Reg) (v : Word) (s : State) : RegsKeptBut [dr] s (writeDest dr v s) :=
  setReg_regsKeptBut s dr v

theorem loadInto_regsKeptBut (dr : Reg) (ea : Word) (s : State) : RegsKeptBut [dr] s (loadInto dr ea s) := by
  intro q hq
  rw [loadInto, writeDest_regsKeptBut dr _ _ q hq, memRead_snd, readEffect_reg]

/-- The link of TRAP is the only register its entry can write (44_trap_system.md R138; log 5). -/
theorem trapEntry_regsKeptBut (s : State) :
    RegsKeptBut (if s.config.trapSavesLink then [s.config.linkReg] else []) s (trapEntry s) := by
  unfold trapEntry
  split
  · exact setReg_regsKeptBut s s.config.linkReg s.pc
  · exact fun _ _ => rfl

/-- Settles O51, by the inversion of `exec`: what an instruction writes is its destination, the link, or R0. -/
theorem onlyListedRegistersAreWritten : Obligations.OnlyListedRegistersAreWritten := by
  intro i s t h
  replace h := exec_next i s t h
  cases i with
  | add | addImm | and | andImm | not | lea => cases h; exact writeDest_regsKeptBut _ _ s
  | ld | ldr => cases h; exact loadInto_regsKeptBut _ _ s
  | ldi =>
    cases h
    intro q hq
    rw [loadInto_regsKeptBut _ _ _ q hq, memRead_snd, readEffect_reg]
  | jsr | jsrr => cases h; exact setReg_regsKeptBut s s.config.linkReg s.pc
  | br => cases h; intro q _; split <;> rfl
  | trapGetc | trapIn =>
    obtain ⟨c, rest, -, rfl⟩ := h
    intro q hq
    obtain ⟨hzero, hlink⟩ := not_or.1 (mt List.mem_cons.2 hq)
    rw [State.reg_setReg, if_neg hzero]
    exact trapEntry_regsKeptBut s q hlink
  | trapPuts | trapPutsp =>
    cases h
    intro q hq
    rw [emitString_reg]
    exact trapEntry_regsKeptBut s q hq
  | trapOut | trapHalt | trapInvalid => cases h; exact trapEntry_regsKeptBut s
  | sti => cases h; intro q _; simp
  | st | str | jmp | rti | res => cases h; exact fun _ _ => rfl

end Sys2Proof.Machine
end

section
/-! The operate instructions (41_operate.md R90 to R96): each is one destination write, so its frame is that of `writeDest`, and
what is left is the arithmetic of the value written. -/

namespace Sys2Proof.Machine

open Sys2Proof.Safety

/-! ### The destination write -/

theorem writeDest_reg_same (dr : Reg) (v : Word) (s : State) : (writeDest dr v s).reg dr = v := by
  rw [writeDest_reg, if_pos rfl]

/-- A destination write is all that a statement about one says: the value, its flags, and nothing else. -/
theorem writeDest_destWritten (dr : Reg) (v : Word) (s : State) : DestWritten dr v s (writeDest dr v s) where
  value := writeDest_reg_same dr v s
  flags := flagsOf_eq_signClass s.config v
  regs := writeDest_regsKeptBut dr v s
  words := fun _ _ => rfl
  pc := rfl
  status := rfl
  console := ⟨rfl, rfl⟩
  own := ⟨rfl, rfl, rfl⟩

theorem regsKeptBut_trans {written : List Reg} {s t u : State} (hst : RegsKeptBut written s t)
    (htu : RegsKeptBut written t u) : RegsKeptBut written s u :=
  fun r hr => (htu r hr).trans (hst r hr)

theorem exec_add (dr sr1 sr2 : Reg) (s : State) :
    exec (.add dr sr1 sr2) s = .next (writeDest dr (s.reg sr1 + s.reg sr2) s) := rfl

theorem exec_addImm (dr sr1 : Reg) (imm5 : BitVec 5) (s : State) :
    exec (.addImm dr sr1 imm5) s = .next (writeDest dr (s.reg sr1 + sext imm5) s) := rfl

theorem exec_and (dr sr1 sr2 : Reg) (s : State) :
    exec (.and dr sr1 sr2) s = .next (writeDest dr (s.reg sr1 &&& s.reg sr2) s) := rfl

theorem exec_andImm (dr sr1 : Reg) (imm5 : BitVec 5) (s : State) :
    exec (.andImm dr sr1 imm5) s = .next (writeDest dr (s.reg sr1 &&& sext imm5) s) := rfl

theorem exec_not (dr sr : Reg) (s : State) : exec (.not dr sr) s = .next (writeDest dr (~~~ s.reg sr) s) := rfl

/-! ### The value written -/

/-- A sign-extended field is its signed value modulo 65536 (40_step_and_decode.md R72). -/
theorem sext_toNat {n : Nat} (f : BitVec n) : ((sext f).toNat : Int) = f.toInt % 65536 := by
  rw [sext, BitVec.signExtend, BitVec.toNat_ofInt]
  exact Int.toNat_of_nonneg (Int.emod_nonneg _ (by decide))

/-- Adding a sign-extended field adds its signed value modulo 65536. -/
theorem add_sext_toNat {n : Nat} (a : Word) (f : BitVec n) :
    ((a + sext f).toNat : Int) = (a.toNat + f.toInt) % 65536 := by
  rw [BitVec.toNat_add]
  push_cast
  rw [sext_toNat]
  exact Int.add_emod_emod _ _ _

/-- Below the field's width a sign-extended field shows its own bits, above it the top one. -/
theorem and_sext_getLsbD (a : Word) (imm5 : BitVec 5) (k : Nat) :
    (a &&& sext imm5).getLsbD k = (a.getLsbD k && if k < 5 then imm5.getLsbD k else imm5.getLsbD 4) := by
  rw [BitVec.getLsbD_and, sext, BitVec.getLsbD_signExtend, BitVec.msb_eq_getLsbD_last]
  by_cases hk : k < 16
  · simp [hk]
  · simp [BitVec.getLsbD_of_ge a k (Nat.le_of_not_lt hk)]

theorem not_add_sext_one (x : Word) : ~~~ x + sext (1 : BitVec 5) = -x := (BitVec.neg_eq_not_add x).symm

/-! ### The statements -/

/-- Settles O10: addition of words is addition modulo 65536. -/
theorem addWritesWrappedSum : Obligations.AddWritesWrappedSum := fun dr sr1 sr2 s =>
  ⟨_, _, exec_add dr sr1 sr2 s, BitVec.toNat_add _ _, writeDest_destWritten dr _ s⟩

/-- Settles O11: the sign-extended immediate counts as its signed value. -/
theorem addImmediateWritesWrappedSum : Obligations.AddImmediateWritesWrappedSum := fun dr sr1 imm5 s =>
  ⟨_, _, exec_addImm dr sr1 imm5 s, add_sext_toNat _ imm5, writeDest_destWritten dr _ s⟩

/-- Settles O12: the and of words is taken bit by bit. -/
theorem andWritesBitwiseAnd : Obligations.AndWritesBitwiseAnd := fun dr sr1 sr2 s =>
  ⟨_, _, exec_and dr sr1 sr2 s, fun _ => BitVec.getLsbD_and, writeDest_destWritten dr _ s⟩

/-- Settles O13: bit 4 of the immediate decides every bit of the mask from 5 on. -/
theorem andImmediateWritesBitwiseAnd : Obligations.AndImmediateWritesBitwiseAnd := fun dr sr1 imm5 s =>
  ⟨_, _, exec_andImm dr sr1 imm5 s, and_sext_getLsbD _ imm5, writeDest_destWritten dr _ s⟩

/-- Settles O14: inverting all 16 bits subtracts from 0xFFFF. -/
theorem notWritesComplement : Obligations.NotWritesComplement := fun dr sr s =>
  ⟨_, _, exec_not dr sr s, BitVec.toNat_not, writeDest_destWritten dr _ s⟩

/-- Settles O15: the second instruction reads the complement the first one left in DR, and the complement plus one is the
negation. -/
theorem notThenAddOneNegates : Obligations.NotThenAddOneNegates := by
  intro dr sr s
  have hnot := writeDest_destWritten dr (~~~ s.reg sr) s
  have hadd := writeDest_destWritten dr (-s.reg sr) (writeDest dr (~~~ s.reg sr) s)
  refine ⟨_, writeDest dr (-s.reg sr) _, exec_not dr sr s, ?completes, ?value, ?flags, regsKeptBut_trans hnot.regs hadd.regs⟩
  case completes => rw [exec_addImm, hnot.value, not_add_sext_one]
  case value => rw [hadd.value]; exact BitVec.toNat_neg _
  case flags => rw [hadd.value, hadd.flags, writeDest_config]

end Sys2Proof.Machine
end

section
/-! Data movement (42_data_movement.md R100 to R106): a load is a read and a destination write in the state the read left, a
store is one memory write. A read of any address but KBSR leaves the state as it was (20_memory.md R32), so there the frame is
that of the write alone. -/

namespace Sys2Proof.Machine

open Sys2Proof.Safety

/-! ### The load and the store -/

theorem loadInto_destWritten (dr : Reg) (ea : Word) (s : State) :
    DestWritten dr (memRead ea s).1 (memRead ea s).2 (loadInto dr ea s) :=
  writeDest_destWritten dr _ _

theorem loadInto_destWritten_of_ne (dr : Reg) (ea : Word) (s : State) (h : ea ≠ s.config.kbsrAddr) :
    DestWritten dr (s.mem.read ea) s (loadInto dr ea s) := by
  rw [loadInto_of_ne dr ea s h]
  exact writeDest_destWritten dr _ s

/-- The store is not intercepted at any address (20_memory.md R34), so the word stored reads back at the keyboard's too. -/
theorem memWrite_wordStored (a v : Word) (s : State) : WordStored a v s (memWrite a v s) where
  value := Memory.read_write_same s.mem a v
  words := fun b hb => Memory.read_write_other s.mem a v b (List.ne_of_not_mem_cons hb)
  regs := fun _ _ => rfl
  flags := rfl
  pc := rfl
  status := rfl
  console := ⟨rfl, rfl⟩
  own := ⟨rfl, rfl, rfl⟩

theorem exec_ld (dr : Reg) (off9 : BitVec 9) (s : State) : exec (.ld dr off9) s = .next (loadInto dr (s.pc + sext off9) s) := rfl

theorem exec_ldi (dr : Reg) (off9 : BitVec 9) (s : State) :
    exec (.ldi dr off9) s = .next (loadInto dr (memRead (s.pc + sext off9) s).1 (memRead (s.pc + sext off9) s).2) := rfl

theorem exec_ldr (dr baseR : Reg) (off6 : BitVec 6) (s : State) :
    exec (.ldr dr baseR off6) s = .next (loadInto dr (s.reg baseR + sext off6) s) := rfl

theorem exec_lea (dr : Reg) (off9 : BitVec 9) (s : State) :
    exec (.lea dr off9) s = .next (writeDest dr (s.pc + sext off9) s) := rfl

theorem exec_st (sr : Reg) (off9 : BitVec 9) (s : State) :
    exec (.st sr off9) s = .next (memWrite (s.pc + sext off9) (s.reg sr) s) := rfl

theorem exec_str (sr baseR : Reg) (off6 : BitVec 6) (s : State) :
    exec (.str sr baseR off6) s = .next (memWrite (s.reg baseR + sext off6) (s.reg sr) s) := rfl

/-- STI takes the register after its read of the pointer, which leaves the registers alone. -/
theorem exec_sti (sr : Reg) (off9 : BitVec 9) (s : State) :
    exec (.sti sr off9) s =
      .next (memWrite (memRead (s.pc + sext off9) s).1 (s.reg sr) (memRead (s.pc + sext off9) s).2) := by
  rw [← readEffect_reg (s.pc + sext off9) s sr]
  rfl

/-! ### The statements -/

/-- Settles O16: LD is a load at the PC-relative address. -/
theorem ldLoadsPcRelativeWord : Obligations.LdLoadsPcRelativeWord := fun dr off9 s =>
  ⟨_, exec_ld dr off9 s, loadInto_destWritten dr _ s, loadInto_destWritten_of_ne dr _ s⟩

/-- Settles O17: LDI is a load at the pointer, in the state the read of the pointer left; a plain read leaves the state as it
was. -/
theorem ldiLoadsThroughPointer : Obligations.LdiLoadsThroughPointer := by
  intro dr off9 s
  refine ⟨_, exec_ldi dr off9 s, loadInto_destWritten dr _ _, fun hpointer hword => ?plain⟩
  rw [memRead_of_ne _ s hpointer]
  exact loadInto_destWritten_of_ne dr _ s hword

/-- Settles O18: LDR is a load at an address taken from the state before it. -/
theorem ldrLoadsBaseOffsetWord : Obligations.LdrLoadsBaseOffsetWord := fun dr baseR off6 s =>
  ⟨_, exec_ldr dr baseR off6 s, loadInto_destWritten dr _ s, loadInto_destWritten_of_ne dr _ s⟩

/-- Settles O19: LEA is a destination write, with no read before it. -/
theorem leaWritesAddress : Obligations.LeaWritesAddress := fun dr off9 s =>
  ⟨_, _, exec_lea dr off9 s, add_sext_toNat s.pc off9, writeDest_destWritten dr _ s⟩

/-- Settles O20: ST is a store at the PC-relative address. -/
theorem stStoresPcRelative : Obligations.StStoresPcRelative := fun sr off9 s =>
  ⟨_, exec_st sr off9 s, memWrite_wordStored _ _ s⟩

/-- Settles O21: STI is a store at the pointer, in the state the read of the pointer left; a plain read leaves the state as it
was. -/
theorem stiStoresThroughPointer : Obligations.StiStoresThroughPointer := by
  intro sr off9 s
  refine ⟨_, exec_sti sr off9 s, memWrite_wordStored _ _ _, fun hpointer => ?plain⟩
  rw [memRead_of_ne _ s hpointer]
  exact memWrite_wordStored _ _ s

/-- Settles O22: STR is a store whose address and data are both taken from the state before it. -/
theorem strStoresBaseOffset : Obligations.StrStoresBaseOffset := fun sr baseR off6 s =>
  ⟨_, exec_str sr baseR off6 s, memWrite_wordStored _ _ s⟩

end Sys2Proof.Machine
end

section
/-! Control transfer (43_control.md R120 to R123): every form is a move of the pc, from the state before it or from the state
its link left. What BR adds is that the three flags, one bit each and all different, are the three bits of the mask. -/

namespace Sys2Proof.Machine

open Sys2Proof.Safety

/-! ### The link and the jump -/

theorem jumped_refl (s : State) : Jumped s.pc [] s s where
  pc := rfl
  regs := fun _ _ => rfl
  words := fun _ _ => rfl
  flags := rfl
  status := rfl
  console := ⟨rfl, rfl⟩
  own := ⟨rfl, rfl, rfl⟩

theorem writeLink_jumped (s : State) : Jumped s.pc [s.config.linkReg] s (writeLink s) :=
  { jumped_refl s with regs := setReg_regsKeptBut s s.config.linkReg s.pc }

/-- A move of the pc replaces the target of what went before it and nothing else. -/
theorem jumpTo_jumped {before : Word} {written : List Reg} {s t : State} (target : Word) (h : Jumped before written s t) :
    Jumped target written s (jumpTo target t) :=
  { h with pc := rfl }

theorem writeLink_reg_link (s : State) : (writeLink s).reg s.config.linkReg = s.pc := by
  rw [writeLink_reg, if_pos rfl]

/-- A branch not taken is a jump to the pc it found. -/
theorem exec_br (nzp : BitVec 3) (off9 : BitVec 9) (s : State) :
    exec (.br nzp off9) s = .next (jumpTo (if flagsMeet nzp s then s.pc + sext off9 else s.pc) s) := by
  change Host.Outcome.next (if flagsMeet nzp s then jumpTo (s.pc + sext off9) s else s) = _
  split <;> rfl

theorem exec_jmp (baseR : Reg) (s : State) : exec (.jmp baseR) s = .next (jumpTo (s.reg baseR) s) := rfl

theorem exec_jsr (off11 : BitVec 11) (s : State) :
    exec (.jsr off11) s = .next (jumpTo (s.pc + sext off11) (writeLink s)) := rfl

/-- JSRR reads its base after the link, so the link register as base gives the pc. -/
theorem exec_jsrr (baseR : Reg) (s : State) :
    exec (.jsrr baseR) s = .next (jumpTo (if baseR = s.config.linkReg then s.pc else s.reg baseR) (writeLink s)) := by
  rw [← writeLink_reg]
  rfl

/-! ### The flags and the mask -/

/-- Three nonzero values of three bits that share no bit are the three single bits in some order (10_state.md R15). -/
theorem flags_perm_bits (c : Config) (h : c.flagsWf) : [c.flagN, c.flagZ, c.flagP].Perm [0b100, 0b010, 0b001] := by
  obtain ⟨⟨hN, hZ, hP⟩, hNZ, hNP, hZP⟩ := h
  generalize c.flagN = n, c.flagZ = z, c.flagP = p at *
  revert n z p
  decide

/-- Two masks meet where they have one of the three bits in common. -/
theorem and_ne_zero_iff_common_bit :
    ∀ x y : BitVec 3, x &&& y ≠ 0 ↔ ∃ f ∈ [0b100, 0b010, 0b001], x &&& f ≠ 0 ∧ y &&& f ≠ 0 := by
  decide

/-- The test of BR, read flag by flag. -/
theorem flagsMeet_iff (nzp : BitVec 3) (s : State) (h : s.config.flagsWf) :
    flagsMeet nzp s = true ↔
      (nzp &&& s.config.flagN ≠ 0 ∧ s.cond &&& s.config.flagN ≠ 0) ∨
        (nzp &&& s.config.flagZ ≠ 0 ∧ s.cond &&& s.config.flagZ ≠ 0) ∨
        (nzp &&& s.config.flagP ≠ 0 ∧ s.cond &&& s.config.flagP ≠ 0) := by
  calc flagsMeet nzp s = true
    _ ↔ nzp &&& s.cond ≠ 0 := bne_iff_ne
    _ ↔ ∃ f ∈ [0b100, 0b010, 0b001], nzp &&& f ≠ 0 ∧ s.cond &&& f ≠ 0 := and_ne_zero_iff_common_bit nzp s.cond
    _ ↔ ∃ f ∈ [s.config.flagN, s.config.flagZ, s.config.flagP], nzp &&& f ≠ 0 ∧ s.cond &&& f ≠ 0 := by
      simp only [(flags_perm_bits s.config h).mem_iff]
    _ ↔ _ := by simp only [List.exists_mem_cons_iff, List.not_mem_nil, false_and, exists_false, or_false]

/-! ### The statements -/

/-- Settles O23: the flags split the mask, so the mask meets the condition exactly where one flag is in both. -/
theorem brTakenIffMaskMeetsFlags : Obligations.BrTakenIffMaskMeetsFlags := by
  rintro nzp off9 s ⟨-, -, -, hflags, -⟩
  refine ⟨_, exec_br nzp off9 s, ?_⟩
  simp only [flagsMeet_iff nzp s hflags]
  exact jumpTo_jumped _ (jumped_refl s)

/-- Settles O25: JSR is a jump in the state its link left. -/
theorem jsrLinksAndJumps : Obligations.JsrLinksAndJumps := fun off11 s =>
  ⟨_, exec_jsr off11 s, writeLink_reg_link s, jumpTo_jumped _ (writeLink_jumped s)⟩

/-- Settles O26: JSRR is a jump in the state its link left, to the base register as that state holds it. -/
theorem jsrrLinksBeforeReadingBase : Obligations.JsrrLinksBeforeReadingBase := fun baseR s =>
  ⟨_, exec_jsrr baseR s, writeLink_reg_link s, jumpTo_jumped _ (writeLink_jumped s)⟩

/-- Settles O24: JMP is a jump in the state it finds. -/
theorem jmpGoesToBase : Obligations.JmpGoesToBase := fun baseR s =>
  ⟨_, exec_jmp baseR s, jumpTo_jumped _ (jumped_refl s)⟩

end Sys2Proof.Machine
end

section
/-! The trap system (44_trap_system.md R130 to R141): every routine is the trap entry followed by changes of the console, the
status or R0, so one frame serves them all. What the string routines add is the walk, read from the address it starts at. -/

namespace Sys2Proof.Machine

open Sys2Proof.Safety

/-! ### What every TRAP leaves -/

/-- The frame of a TRAP does not speak of the console or the status, which a routine may change after the trap entry. -/
theorem trapEntry_trapKept (s : State) (pending log : List Byte) (status : Status) :
    TrapKept [] s { trapEntry s with input := pending, output := log, status := status } where
  regs := fun r _ => trapEntry_reg s r
  words := fun a _ => congrArg (Memory.read · a) (trapEntry_mem s)
  flags := trapEntry_cond s
  pc := trapEntry_pc s
  own := ⟨trapEntry_config s, trapEntry_images s, trapEntry_arrivals s⟩

/-- R0, the one register a routine writes, is the one its frame then lists. -/
theorem trapKept_setReg_zero {s t : State} (v : Word) (h : TrapKept [] s t) : TrapKept [0] s (t.setReg 0 v) :=
  { h with
    regs := fun r hr => by
      rw [State.reg_setReg, if_neg (List.ne_of_not_mem_cons hr)]
      exact h.regs r List.not_mem_nil }

theorem linkReg_ne_zero_of_wf (c : Config) (h : c.wf) : c.linkReg ≠ 0 := by
  obtain ⟨-, -, -, -, hlink, -⟩ := h
  exact hlink

/-! ### The walk over a string, by the address it starts at -/

/-- The bytes of `n` words from an address on. -/
def stringBytes (emit : Word → List Byte) (m : Memory) (a : Word) (n : Nat) : List Byte :=
  (List.range n).flatMap fun k => emit (m.read (a + BitVec.ofNat 16 k))

theorem stringBytes_succ (emit : Word → List Byte) (m : Memory) (a : Word) (n : Nat) :
    stringBytes emit m a (n + 1) = stringBytes emit m a n ++ emit (m.read (a + BitVec.ofNat 16 n)) := by
  simp [stringBytes, List.range_succ]

/-- Up to 0xFFFF an address plus a count does not wrap (20_memory.md R30). -/
theorem Memory.read_add_ofNat (m : Memory) (a : Word) (k : Nat) (h : a.toNat + k ≤ 65535) :
    m.read (a + BitVec.ofNat 16 k) = m.lookup (a.toNat + k) := by
  rw [Memory.read, BitVec.toNat_add, BitVec.toNat_ofNat, Nat.add_mod_mod, Nat.mod_eq_of_lt (by omega)]

/-- The walk at the word `k` places after an address: it ends there, or emits the word and goes on to the next. -/
theorem walkString_at (emit : Word → List Byte) (m : Memory) (a : Word) (k : Nat) (h : a.toNat + k ≤ 65535) :
    walkString emit m (65536 - (a.toNat + k)) =
      if m.read (a + BitVec.ofNat 16 k) = 0 then ⟨[], true⟩
      else
        ⟨emit (m.read (a + BitVec.ofNat 16 k)) ++ (walkString emit m (65536 - (a.toNat + (k + 1)))).bytes,
          (walkString emit m (65536 - (a.toNat + (k + 1)))).ended⟩ := by
  have hleft : 65536 - (a.toNat + k) = 65536 - (a.toNat + (k + 1)) + 1 := by omega
  have hword : m.lookup (65536 - (65536 - (a.toNat + (k + 1)) + 1)) = m.read (a + BitVec.ofNat 16 k) := by
    rw [m.read_add_ofNat a k h, ← hleft, Nat.sub_sub_self (by omega)]
  rw [hleft, ← hword]
  split
  · exact walkString_stop emit m _ ‹_›
  · exact walkString_go emit m _ ‹_›

/-- The walk emits every word before it meets a zero: after `n` nonzero words it is the walk from there on. -/
theorem walkString_of_nonzero (emit : Word → List Byte) (m : Memory) (a : Word) (n : Nat) (h : a.toNat + n ≤ 65536)
    (hne : ∀ k < n, m.read (a + BitVec.ofNat 16 k) ≠ 0) :
    walkString emit m (65536 - a.toNat) =
      ⟨stringBytes emit m a n ++ (walkString emit m (65536 - (a.toNat + n))).bytes,
        (walkString emit m (65536 - (a.toNat + n))).ended⟩ := by
  induction n with
  | zero => rfl
  | succ n ih =>
    rw [ih (by omega) fun k hk => hne k (by omega), walkString_at emit m a n (by omega), if_neg (hne n (by omega)),
      stringBytes_succ, List.append_assoc]

/-- A string that a zero word ends is emitted, and nothing else happens (R133, R135). -/
theorem emitString_of_zero (emit : Word → List Byte) {s : State} {m : Memory} {a : Word} {n : Nat} (hm : s.mem = m)
    (ha : s.reg 0 = a) (h : a.toNat + n ≤ 65535) (hne : ∀ k < n, m.read (a + BitVec.ofNat 16 k) ≠ 0)
    (hzero : m.read (a + BitVec.ofNat 16 n) = 0) :
    emitString emit s = consoleOut (stringBytes emit m a n) s := by
  have hwalk : walkString emit m (65536 - a.toNat) = ⟨stringBytes emit m a n, true⟩ := by
    rw [walkString_of_nonzero emit m a n (by omega) hne, walkString_at emit m a n h, if_pos hzero, List.append_nil]
  rw [emitString, hm, ha, hwalk]
  rfl

/-- A string that no zero word up to 0xFFFF ends is emitted to there, and then the run ends (R141). -/
theorem emitString_of_overrun (emit : Word → List Byte) {s : State} {m : Memory} {a : Word} (hm : s.mem = m)
    (ha : s.reg 0 = a) (hne : ∀ k, a.toNat + k ≤ 65535 → m.read (a + BitVec.ofNat 16 k) ≠ 0) :
    emitString emit s = raiseFatal .stringOverrun (consoleOut (stringBytes emit m a (65536 - a.toNat)) s) := by
  have hend : a.toNat + (65536 - a.toNat) = 65536 := by omega
  have hwalk : walkString emit m (65536 - a.toNat) = ⟨stringBytes emit m a (65536 - a.toNat), false⟩ := by
    rw [walkString_of_nonzero emit m a _ hend.le fun k hk => hne k (by omega), hend, Nat.sub_self, walkString_zero,
      List.append_nil]
  rw [emitString, hm, ha, hwalk]
  rfl

/-! ### The bytes of a word -/

theorem lowByte_eq_setWidth (w : Word) : lowByte w = w.setWidth 8 := (BitVec.setWidth_eq_extractLsb' (by decide)).symm

theorem lowByte_toNat (w : Word) : (lowByte w).toNat = w.toNat % 256 := by
  rw [lowByte_eq_setWidth, BitVec.toNat_setWidth]

theorem highByte_eq_setWidth (w : Word) : highByte w = (w >>> 8).setWidth 8 := rfl

theorem highByte_toNat (w : Word) : (highByte w).toNat = w.toNat / 256 := by
  have hw := w.isLt
  rw [highByte, BitVec.extractLsb'_toNat, Nat.shiftRight_eq_div_pow, Nat.mod_eq_of_lt (by omega)]

/-- The high byte of a word is zero exactly if the word is below 256, so it is then left out (R135). -/
theorem packedCharacters_eq (w : Word) :
    packedCharacters w = if w.toNat < 256 then [w.setWidth 8] else [w.setWidth 8, (w >>> 8).setWidth 8] := by
  have hzero : highByte w = 0 ↔ w.toNat < 256 := by
    rw [← BitVec.toNat_inj, highByte_toNat]
    exact Nat.div_eq_zero_iff_lt (by decide)
  simp only [packedCharacters, hzero]
  rw [lowByte_eq_setWidth, highByte_eq_setWidth]

theorem stringBytes_oneCharacter (m : Memory) (a : Word) (n : Nat) :
    stringBytes oneCharacter m a n = (List.range n).map fun k => (m.read (a + BitVec.ofNat 16 k)).setWidth 8 := by
  simp only [stringBytes, oneCharacter, lowByte_eq_setWidth, List.map_eq_flatMap]

theorem stringBytes_packedCharacters (m : Memory) (a : Word) (n : Nat) :
    stringBytes packedCharacters m a n = (List.range n).flatMap fun k =>
      let w := m.read (a + BitVec.ofNat 16 k)
      if w.toNat < 256 then [w.setWidth 8] else [w.setWidth 8, (w >>> 8).setWidth 8] := by
  simp only [stringBytes, packedCharacters_eq]

/-! ### The meanings -/

theorem exec_trapOut (s : State) : exec .trapOut s = .next (consoleOut [lowByte ((trapEntry s).reg 0)] (trapEntry s)) := rfl

theorem exec_trapPuts (s : State) : exec .trapPuts s = .next (emitString oneCharacter (trapEntry s)) := rfl

theorem exec_trapPutsp (s : State) : exec .trapPutsp s = .next (emitString packedCharacters (trapEntry s)) := rfl

theorem exec_trapHalt (s : State) : exec .trapHalt s = .next { trapEntry s with status := .halted } := rfl

theorem exec_trapInvalid (vect8 : Byte) (s : State) :
    exec (.trapInvalid vect8) s = .next (raiseFatal .invalidTrapVector (trapEntry s)) := rfl

theorem exec_rti (s : State) : exec .rti s = .next (raiseFatal .invalidOpcode s) := rfl

theorem exec_res (s : State) : exec .res s = .next (raiseFatal .invalidOpcode s) := rfl

/-! ### The string routines, for any bytes a word stands for -/

/-- A routine that emits a string a zero word ends (R133, R135). -/
theorem exec_string_of_zero {i : Instr} {emit : Word → List Byte} {s : State} {n : Nat}
    (hexec : exec i s = .next (emitString emit (trapEntry s))) (hwf : s.config.wf) (hn : (s.reg 0).toNat + n ≤ 65535)
    (hne : ∀ k < n, s.mem.read (s.reg 0 + BitVec.ofNat 16 k) ≠ 0)
    (hzero : s.mem.read (s.reg 0 + BitVec.ofNat 16 n) = 0) :
    ∃ t : State, exec i s = .next t ∧ t.output = s.output ++ stringBytes emit s.mem (s.reg 0) n ∧
      t.input = s.input ∧ t.status = s.status ∧ TrapKept [] s t := by
  have hemit := emitString_of_zero emit (trapEntry_mem s) (trapEntry_reg_zero s (linkReg_ne_zero_of_wf s.config hwf)) hn
    hne hzero
  refine ⟨_, hexec.trans (congrArg _ hemit), ?output, trapEntry_input s, trapEntry_status s, trapEntry_trapKept s _ _ _⟩
  case output => rw [consoleOut_output, trapEntry_output]

/-- A routine that emits a string to the end of memory (R141). -/
theorem exec_string_of_overrun {i : Instr} {emit : Word → List Byte} {s : State}
    (hexec : exec i s = .next (emitString emit (trapEntry s))) (hwf : s.config.wf)
    (hne : ∀ k, (s.reg 0).toNat + k ≤ 65535 → s.mem.read (s.reg 0 + BitVec.ofNat 16 k) ≠ 0) :
    ∃ t : State, exec i s = .next t ∧ t.status = .fatal .stringOverrun ∧
      t.output = s.output ++ stringBytes emit s.mem (s.reg 0) (65536 - (s.reg 0).toNat) ∧
      t.input = s.input ∧ TrapKept [] s t := by
  have hemit := emitString_of_overrun emit (trapEntry_mem s)
    (trapEntry_reg_zero s (linkReg_ne_zero_of_wf s.config hwf)) hne
  refine ⟨_, hexec.trans (congrArg _ hemit), rfl, ?output, trapEntry_input s, trapEntry_trapKept s _ _ _⟩
  case output => rw [raiseFatal_output, consoleOut_output, trapEntry_output]

/-! ### The statements -/

/-- Settles O27: GETC is the trap entry, the byte off the queue, and the byte in R0. -/
theorem getcReadsOneByte : Obligations.GetcReadsOneByte := by
  intro s c rest hinput
  refine ⟨_, exec_trapGetc_ready s c rest hinput, ?value, rfl, trapEntry_output s, trapEntry_status s, ?kept⟩
  case value => rw [State.reg_setReg, if_pos rfl, zext_toNat]
  case kept => exact trapKept_setReg_zero _ (trapEntry_trapKept s _ _ _)

/-- Settles O29: PUTS emits the low byte of each word its walk passes. -/
theorem putsEmitsUpToZeroWord : Obligations.PutsEmitsUpToZeroWord := by
  intro s n hwf hn hne hzero
  rw [← stringBytes_oneCharacter]
  exact exec_string_of_zero (exec_trapPuts s) hwf hn hne hzero

/-- Settles O30: PUTSP emits the packed bytes of each word its walk passes. -/
theorem putspEmitsPackedBytes : Obligations.PutspEmitsPackedBytes := by
  intro s n hwf hn hne hzero
  rw [← stringBytes_packedCharacters]
  exact exec_string_of_zero (exec_trapPutsp s) hwf hn hne hzero

/-- Settles O31: the walk of either routine runs out of words before it meets a zero one. -/
theorem stringPastEndIsFatal : Obligations.StringPastEndIsFatal := by
  intro s hwf hne
  rw [← stringBytes_oneCharacter, ← stringBytes_packedCharacters]
  exact ⟨exec_string_of_overrun (exec_trapPuts s) hwf hne, exec_string_of_overrun (exec_trapPutsp s) hwf hne⟩

/-- Settles O32: IN is GETC with the prompt and the byte put on the log. -/
theorem inPromptsReadsAndEchoes : Obligations.InPromptsReadsAndEchoes := by
  intro s c rest hinput
  refine ⟨_, exec_trapIn_ready s c rest hinput, ?value, rfl, ?output, trapEntry_status s, ?kept⟩
  case value => rw [State.reg_setReg, if_pos rfl, zext_toNat]
  case output => simp only [State.setReg_output, consoleOut_output, trapEntry_output, List.append_assoc]
  case kept => exact trapKept_setReg_zero _ (trapEntry_trapKept s _ _ _)

/-- Settles O28: the trap entry leaves R0 alone, the link register being another. -/
theorem outEmitsLowByte : Obligations.OutEmitsLowByte := by
  intro s hwf
  refine ⟨lowByte ((trapEntry s).reg 0), _, exec_trapOut s, ?byte, ?output, trapEntry_input s, trapEntry_status s, ?kept⟩
  case byte => rw [lowByte_toNat, trapEntry_reg_zero s (linkReg_ne_zero_of_wf s.config hwf)]
  case output => rw [consoleOut_output, trapEntry_output]
  case kept => exact trapEntry_trapKept s _ _ _

/-- Settles O33: HALT is the trap entry and the status. -/
theorem haltSetsTermination : Obligations.HaltSetsTermination := fun s =>
  ⟨_, exec_trapHalt s, rfl, ⟨trapEntry_input s, trapEntry_output s⟩,
    trapEntry_trapKept s _ _ _⟩

/-- Settles O34: an undefined vector is the trap entry and the status, whichever it is. -/
theorem undefinedVectorIsFatal : Obligations.UndefinedVectorIsFatal := fun v s =>
  ⟨_, exec_trapInvalid v s, rfl, ⟨trapEntry_input s, trapEntry_output s⟩,
    trapEntry_trapKept s _ _ _⟩

/-- Settles O35: both are one raise, which writes the status only, and no trap entry. -/
theorem rtiAndReservedAreFatal : Obligations.RtiAndReservedAreFatal := fun s =>
  ⟨exec_rti s, exec_res s⟩

end Sys2Proof.Machine
end

section
/-! The fatal conditions (60_exceptions.md R151, R152): `raiseFatal` is the only operation that writes one, so the cause in the
next state tells which instruction raised it. -/

namespace Sys2Proof.Machine

/-- The one fatal condition a string routine can raise is the overrun (60_exceptions.md R152). -/
theorem emitString_cause (emit : Word → List Byte) {s : State} {cause : Cause} (hs : s.status = .running)
    (h : (emitString emit s).status = .fatal cause) : cause = .stringOverrun := by
  rw [emitString_status] at h
  split at h
  · simp [hs] at h
  · exact (Status.fatal.inj h).symm

/-- Settles O55, by the inversion of `exec`: the listed instructions end in a raise of their own cause, HALT halts, and every
other one leaves the machine running. -/
theorem fatalOnlyFromListedCauses : Obligations.FatalOnlyFromListedCauses := by
  intro i s t cause hs h hcause
  replace h := exec_next i s t h
  cases i with
  | rti => cases h; exact .inl ⟨(Status.fatal.inj hcause).symm, .inl rfl⟩
  | res => cases h; exact .inl ⟨(Status.fatal.inj hcause).symm, .inr rfl⟩
  | trapInvalid v => cases h; exact .inr (.inl ⟨(Status.fatal.inj hcause).symm, v, rfl⟩)
  | trapPuts => cases h; exact .inr (.inr ⟨emitString_cause _ (by simpa using hs) hcause, .inl rfl⟩)
  | trapPutsp => cases h; exact .inr (.inr ⟨emitString_cause _ (by simpa using hs) hcause, .inr rfl⟩)
  | trapHalt => cases h; cases hcause
  | trapGetc | trapIn => obtain ⟨c, rest, -, rfl⟩ := h; simp [hs] at hcause
  | br => cases h; split at hcause <;> simp [hs] at hcause
  | _ => cases h; simp [hs] at hcause

end Sys2Proof.Machine
end

section
/-! Reset, the loader and the boot (70_reset_and_hazards.md R170 to R176): what an image writes, seen through the reads of a
memory; a boot event, seen through the images still to load; and the run of boot events up to the start. -/

namespace Sys2Proof.Machine

open Sys2Proof.Safety

/-! ### The loader -/

/-- Two bytes as a word, the high one first (R172). -/
theorem bigEndian_toNat (hi lo : Byte) : (hi ++ lo : Word).toNat = 256 * hi.toNat + lo.toNat := by
  rw [BitVec.toNat_append, ← Nat.shiftLeft_add_eq_or_of_lt lo.isLt, Nat.shiftLeft_eq, Nat.mul_comm]

/-- The content word of that index in a byte stream, as a number: the high byte first, zero past the end (R172). -/
def contentWord (bytes : List Byte) (k : Nat) : Nat :=
  256 * (bytes.getD (2 * k) 0).toNat + (bytes.getD (2 * k + 1) 0).toNat

theorem contentWord_cons_zero (hi lo : Byte) (rest : List Byte) :
    contentWord (hi :: lo :: rest) 0 = (hi ++ lo : Word).toNat := (bigEndian_toNat hi lo).symm

theorem contentWord_cons_succ (hi lo : Byte) (rest : List Byte) (k : Nat) :
    contentWord (hi :: lo :: rest) (k + 1) = contentWord rest k := rfl

/-- What is read after the words of a stream were placed from an address on. The words dropped past 0xFFFF need no clause of their
own: no address reads there (R173). -/
theorem placeWords_read (bytes : List Byte) (o : Nat) (m : Memory) (a : Word) :
    ((placeWords bytes o m).read a).toNat =
      if o ≤ a.toNat ∧ a.toNat < o + bytes.length / 2 then contentWord bytes (a.toNat - o) else (m.read a).toNat := by
  have ha := a.isLt
  induction bytes, o, m using placeWords.induct with
  | case1 hi lo rest o m ho ih =>
    have hcell : a = BitVec.ofNat 16 o ↔ a.toNat = o := by
      rw [← BitVec.toNat_inj, BitVec.toNat_ofNat, Nat.mod_eq_of_lt ho]
    rw [placeWords, if_pos ho, ih, Memory.read_write]
    simp only [hcell, List.length_cons]
    rcases lt_trichotomy a.toNat o with hlt | heq | hgt
    · rw [if_neg (by omega), if_neg (by omega), if_neg (by omega)]
    · rw [if_neg (by omega), if_pos heq, if_pos (by omega), heq, Nat.sub_self, contentWord_cons_zero]
    · have hsub : a.toNat - o = a.toNat - (o + 1) + 1 := by omega
      have hin : (o + 1 ≤ a.toNat ∧ a.toNat < o + 1 + rest.length / 2) ↔
          o ≤ a.toNat ∧ a.toNat < o + (rest.length + 1 + 1) / 2 := by omega
      rw [hsub, contentWord_cons_succ, if_neg (by omega : a.toNat ≠ o)]
      simp only [hin]
  | case2 hi lo rest o m ho => rw [placeWords, if_neg ho, if_neg (by omega)]
  | case3 bytes o m hshort =>
    match bytes with
    | [] | [_] => exact (if_neg (by simp only [List.length]; omega)).symm
    | hi :: lo :: rest => exact (hshort hi lo rest rfl).elim

theorem loadImage_cons (hi lo : Byte) (body : List Byte) (m : Memory) :
    loadImage (hi :: lo :: body) m = placeWords body (256 * hi.toNat + lo.toNat) m := by
  rw [loadImage, bigEndian_toNat]

/-- A stream without an origin word writes nothing (R173). -/
theorem loadImage_of_short (bytes : List Byte) (m : Memory) (h : bytes.length < 2) : loadImage bytes m = m := by
  match bytes with
  | [] | [_] => rfl
  | _ :: _ :: _ => simp at h

/-! ### The boot events, by the images still to load -/

theorem hostBoot_of_none_left (s : State) (h : s.images = []) : hostBoot s = hostStart s := by
  simp [hostBoot, h]

theorem hostBoot_of_readable (s : State) (image : List Byte) (rest : List Image) (h : s.images = some image :: rest) :
    hostBoot s = { s with mem := loadImage image s.mem, images := rest } := by
  simp [hostBoot, h]

theorem hostBoot_of_unreadable (s : State) (rest : List Image) (h : s.images = none :: rest) :
    hostBoot s = raiseFatal .loadFailure { s with images := rest } := by
  simp [hostBoot, h]

/-- Where no input is scripted, a step of an idle machine is a boot event and nothing else. -/
theorem step_idle_of_quiet (s : State) (hs : s.status = .idle) (hquiet : s.arrivals = []) :
    step s = .next (hostBoot s) := by
  rw [step_idle s hs, deliver_of_nil s hquiet]

/-- A run goes on from the next state. -/
theorem run_succ_of_step (M : Host.Core) {s t : M.State} (k : Nat) (h : M.step s = .next t) :
    M.run (k + 1) s = M.run k t := by
  rw [Host.Core.run, h]

/-- The machine as the whole boot leaves it (R171, R176): the images loaded in order, and the start. -/
def booted (images : List (List Byte)) (s : State) : State :=
  hostStart { s with images := [], mem := images.foldl (fun m image => loadImage image m) s.mem }

theorem booted_nil (s : State) (h : s.images = []) : booted [] s = hostStart s := by
  change hostStart { s with images := [] } = hostStart s
  rw [← h]

/-- One boot event an image, and one for the start. -/
theorem run_boot (images : List (List Byte)) (s : State) (hs : s.status = .idle) (hquiet : s.arrivals = [])
    (himages : s.images = images.map some) :
    Host.Core.run core (images.length + 1) s = .next (booted images s) := by
  induction images generalizing s with
  | nil =>
    have hboot : step s = .next (booted [] s) := by
      rw [step_idle_of_quiet s hs hquiet, hostBoot_of_none_left s himages, booted_nil s himages]
    exact run_succ_of_step core 0 hboot
  | cons image images ih =>
    have hload : step s = .next { s with mem := loadImage image s.mem, images := images.map some } := by
      rw [step_idle_of_quiet s hs hquiet, hostBoot_of_readable s image _ himages]
    exact (run_succ_of_step core _ hload).trans (ih _ hs hquiet rfl)

/-! ### Reset -/

theorem resetWith_reg (config : Config) (r : Reg) : (State.resetWith config).reg r = 0 := by
  simp [State.reg, State.resetWith]

theorem condReset_legal_of_wf (config : Config) (h : config.wf) : config.condLegal config.condReset := by
  obtain ⟨-, -, -, -, -, -, hcond⟩ := h
  exact hcond

theorem resetWith_stateInv (config : Config) (h : config.wf) : StateInv (State.resetWith config) :=
  ⟨h, Memory.wf_nil, condReset_legal_of_wf config h⟩

theorem standard_wf : Config.standard.wf := by decide

/-! ### The statements -/

/-- Settles O44: loading places the words of the body from the origin, and the bound at 0xFFFF excludes no address. -/
theorem loaderPlacesBigEndianWords : Obligations.LoaderPlacesBigEndianWords := by
  refine ⟨fun hi lo body m a => ?_, loadImage_of_short⟩
  intro origin n
  have hin : (origin ≤ a.toNat ∧ a.toNat < origin + n) ↔
      (origin ≤ a.toNat ∧ a.toNat < origin + body.length / 2) := by
    have ha := a.isLt
    omega
  rw [loadImage_cons, placeWords_read]
  simp only [hin]
  rfl

/-- Settles O45: the run of the boot from a machine that has those images still to load. -/
theorem bootLoadsImagesInOrderThenStarts : Obligations.BootLoadsImagesInOrderThenStarts := fun s images hs hquiet =>
  run_boot images { s with images := images.map some } hs hquiet rfl

/-- Settles O43: what reset leaves is its definition field by field, and the defaults are the values of R4. -/
theorem resetLeavesZeroedIdleMachine : Obligations.ResetLeavesZeroedIdleMachine :=
  ⟨rfl, fun config => ⟨resetWith_reg config, rfl, fun _ => rfl, rfl, rfl, rfl, rfl⟩,
    rfl, rfl, rfl, rfl, rfl, rfl, rfl, rfl, rfl, rfl, by decide⟩

/-- Settles O46: the step is the raise of the load failure, which writes the status only. -/
theorem unreadableImageIsFatal : Obligations.UnreadableImageIsFatal := by
  intro s rest hs himages
  have hstep : step s = .next (raiseFatal .loadFailure { deliver s with images := rest }) := by
    rw [step_idle s hs, hostBoot_of_unreadable (deliver s) rest (by simpa using himages)]
  refine ⟨_, hstep, rfl, fun r _ => ?regs, fun a _ => ?words, ?pc, ?cond, ?output⟩
  case regs => exact deliver_reg s r
  case words => exact congrArg (Memory.read · a) (deliver_mem s)
  case pc => exact deliver_pc s
  case cond => exact deliver_cond s
  case output => exact deliver_output s

/-- Settles O47: reset leaves the empty memory, and COND_RESET is legal in parameters of one machine. -/
theorem resetMeetsInvariant : Obligations.ResetMeetsInvariant :=
  ⟨resetWith_stateInv, resetWith_stateInv Config.standard standard_wf⟩

end Sys2Proof.Machine
end

section
/-! Words of the decoding table of 95_test_vectors.md at the standard parameters: each is read field by field, and so carries the
instruction of its row; undecoded bits that are set enter no field (R62). -/

namespace Sys2Proof

/-- Settles O5: each word carries the instruction of its row, as reading its opcode and fields shows. -/
theorem testVectorWordsDecode : Obligations.TestVectorWordsDecode := by
  refine ⟨?br, ?add, ?addImm, ?jsr, ?jsrr, ?ldr, ?not, ?sti, ?getc, ?invalid⟩
  case add | addImm => exact decode_standard_of_carriedBy rfl ⟨rfl, rfl, rfl, rfl, rfl⟩
  case ldr => exact decode_standard_of_carriedBy rfl ⟨rfl, rfl, rfl, rfl⟩
  case br | sti | not | jsr | jsrr => exact decode_standard_of_carriedBy rfl ⟨rfl, rfl, rfl⟩
  case getc | invalid => exact decode_standard_of_carriedBy rfl ⟨rfl, rfl⟩

end Sys2Proof
end
